-- ==== Sys2Proof/Word.lean ====
section
/-! DEFINITION. The two widths of the CPU bus: a byte of data and a 16-bit address (rules R4, R7, R83). -/

namespace Sys2Proof

/-- A byte (rule R83: the only access width). -/
abbrev Byte := BitVec 8

/-- A 16-bit CPU address or program counter (rules R4, R22). -/
abbrev Word := BitVec 16

end Sys2Proof
end

