-- ==== Sys2Proof/Syntax.lean ====
section
/-! DEFINITION. The abstract syntax: one constructor per row of the opcode table (rule R150), its operand fields as
rule R141 gives them: a byte (IMM, ZP, ZPX, ZPY, IZX, IZY), a 16-bit address (ABS, ABX, ABY, IND), a signed offset (REL),
nothing (IMP, ACC). A constructor's name is the mnemonic followed by the addressing mode; IMP, REL and JSR's only mode are not written. -/

namespace Sys2Proof

/-- The 151 legal instructions (rules R150, R151). -/
inductive Instr where
  -- read-and-use (spec 41)
  | adcIzx (b : Byte)
  | adcZp (b : Byte)
  | adcImm (b : Byte)
  | adcAbs (a : Word)
  | adcIzy (b : Byte)
  | adcZpx (b : Byte)
  | adcAby (a : Word)
  | adcAbx (a : Word)
  | andIzx (b : Byte)
  | andZp (b : Byte)
  | andImm (b : Byte)
  | andAbs (a : Word)
  | andIzy (b : Byte)
  | andZpx (b : Byte)
  | andAby (a : Word)
  | andAbx (a : Word)
  | bitZp (b : Byte)
  | bitAbs (a : Word)
  | cmpIzx (b : Byte)
  | cmpZp (b : Byte)
  | cmpImm (b : Byte)
  | cmpAbs (a : Word)
  | cmpIzy (b : Byte)
  | cmpZpx (b : Byte)
  | cmpAby (a : Word)
  | cmpAbx (a : Word)
  | cpxImm (b : Byte)
  | cpxZp (b : Byte)
  | cpxAbs (a : Word)
  | cpyImm (b : Byte)
  | cpyZp (b : Byte)
  | cpyAbs (a : Word)
  | eorIzx (b : Byte)
  | eorZp (b : Byte)
  | eorImm (b : Byte)
  | eorAbs (a : Word)
  | eorIzy (b : Byte)
  | eorZpx (b : Byte)
  | eorAby (a : Word)
  | eorAbx (a : Word)
  | ldaIzx (b : Byte)
  | ldaZp (b : Byte)
  | ldaImm (b : Byte)
  | ldaAbs (a : Word)
  | ldaIzy (b : Byte)
  | ldaZpx (b : Byte)
  | ldaAby (a : Word)
  | ldaAbx (a : Word)
  | ldxImm (b : Byte)
  | ldxZp (b : Byte)
  | ldxAbs (a : Word)
  | ldxZpy (b : Byte)
  | ldxAby (a : Word)
  | ldyImm (b : Byte)
  | ldyZp (b : Byte)
  | ldyAbs (a : Word)
  | ldyZpx (b : Byte)
  | ldyAbx (a : Word)
  | oraIzx (b : Byte)
  | oraZp (b : Byte)
  | oraImm (b : Byte)
  | oraAbs (a : Word)
  | oraIzy (b : Byte)
  | oraZpx (b : Byte)
  | oraAby (a : Word)
  | oraAbx (a : Word)
  | sbcIzx (b : Byte)
  | sbcZp (b : Byte)
  | sbcImm (b : Byte)
  | sbcAbs (a : Word)
  | sbcIzy (b : Byte)
  | sbcZpx (b : Byte)
  | sbcAby (a : Word)
  | sbcAbx (a : Word)
  -- store (42)
  | staIzx (b : Byte)
  | staZp (b : Byte)
  | staAbs (a : Word)
  | staIzy (b : Byte)
  | staZpx (b : Byte)
  | staAby (a : Word)
  | staAbx (a : Word)
  | stxZp (b : Byte)
  | stxAbs (a : Word)
  | stxZpy (b : Byte)
  | styZp (b : Byte)
  | styAbs (a : Word)
  | styZpx (b : Byte)
  -- read-modify-write (43)
  | aslZp (b : Byte)
  | aslAcc
  | aslAbs (a : Word)
  | aslZpx (b : Byte)
  | aslAbx (a : Word)
  | decZp (b : Byte)
  | decAbs (a : Word)
  | decZpx (b : Byte)
  | decAbx (a : Word)
  | incZp (b : Byte)
  | incAbs (a : Word)
  | incZpx (b : Byte)
  | incAbx (a : Word)
  | lsrZp (b : Byte)
  | lsrAcc
  | lsrAbs (a : Word)
  | lsrZpx (b : Byte)
  | lsrAbx (a : Word)
  | rolZp (b : Byte)
  | rolAcc
  | rolAbs (a : Word)
  | rolZpx (b : Byte)
  | rolAbx (a : Word)
  | rorZp (b : Byte)
  | rorAcc
  | rorAbs (a : Word)
  | rorZpx (b : Byte)
  | rorAbx (a : Word)
  -- single-byte (44)
  | clc
  | cld
  | cli
  | clv
  | dex
  | dey
  | inx
  | iny
  | nop
  | sec
  | sed
  | sei
  | tax
  | tay
  | tsx
  | txa
  | txs
  | tya
  -- branch (45)
  | bcc (off : Int)
  | bcs (off : Int)
  | beq (off : Int)
  | bmi (off : Int)
  | bne (off : Int)
  | bpl (off : Int)
  | bvc (off : Int)
  | bvs (off : Int)
  -- stack, jump, subroutine (46)
  | jmpAbs (a : Word)
  | jmpInd (a : Word)
  | jsr (a : Word)
  | pha
  | php
  | pla
  | plp
  | rts
  -- system (47)
  | brk
  | rti
deriving DecidableEq, Repr

end Sys2Proof
end

