-- ==== Sys2Proof/WellFormed.lean ====
section
/-! DEFINITION. Which instructions an encoding can hold. Every byte and every address is a legal operand (rule R153);
the one check is the range of a branch offset (rule R155: -128..+127). -/

namespace Sys2Proof

/-- The offset range of the branch family (rules R155, R300). -/
def offsetInRange (off : Int) : Bool := decide (-128 ≤ off) && decide (off ≤ 127)

/-- An instruction is well formed when its encoding exists (rules R153, R155). -/
def Instr.wellFormed : Instr → Bool
  | .bcc off | .bcs off | .beq off | .bmi off | .bne off | .bpl off | .bvc off | .bvs off => offsetInRange off
  | .aslAcc | .lsrAcc | .rolAcc | .rorAcc | .clc | .cld | .cli | .clv | .dex | .dey | .inx | .iny | .nop | .sec
  | .sed | .sei | .tax | .tay | .tsx | .txa | .txs | .tya | .pha | .php | .pla | .plp | .rts | .brk | .rti => true
  | .adcIzx _ | .adcZp _ | .adcImm _ | .adcIzy _ | .adcZpx _ | .andIzx _ | .andZp _ | .andImm _ | .andIzy _
  | .andZpx _ | .bitZp _ | .cmpIzx _ | .cmpZp _ | .cmpImm _ | .cmpIzy _ | .cmpZpx _ | .cpxImm _ | .cpxZp _
  | .cpyImm _ | .cpyZp _ | .eorIzx _ | .eorZp _ | .eorImm _ | .eorIzy _ | .eorZpx _ | .ldaIzx _ | .ldaZp _
  | .ldaImm _ | .ldaIzy _ | .ldaZpx _ | .ldxImm _ | .ldxZp _ | .ldxZpy _ | .ldyImm _ | .ldyZp _ | .ldyZpx _
  | .oraIzx _ | .oraZp _ | .oraImm _ | .oraIzy _ | .oraZpx _ | .sbcIzx _ | .sbcZp _ | .sbcImm _ | .sbcIzy _
  | .sbcZpx _ | .staIzx _ | .staZp _ | .staIzy _ | .staZpx _ | .stxZp _ | .stxZpy _ | .styZp _ | .styZpx _ | .aslZp _
  | .aslZpx _ | .decZp _ | .decZpx _ | .incZp _ | .incZpx _ | .lsrZp _ | .lsrZpx _ | .rolZp _ | .rolZpx _ | .rorZp _
  | .rorZpx _ => true
  | .adcAbs _ | .adcAby _ | .adcAbx _ | .andAbs _ | .andAby _ | .andAbx _ | .bitAbs _ | .cmpAbs _ | .cmpAby _
  | .cmpAbx _ | .cpxAbs _ | .cpyAbs _ | .eorAbs _ | .eorAby _ | .eorAbx _ | .ldaAbs _ | .ldaAby _ | .ldaAbx _
  | .ldxAbs _ | .ldxAby _ | .ldyAbs _ | .ldyAbx _ | .oraAbs _ | .oraAby _ | .oraAbx _ | .sbcAbs _ | .sbcAby _
  | .sbcAbx _ | .staAbs _ | .staAby _ | .staAbx _ | .stxAbs _ | .styAbs _ | .aslAbs _ | .aslAbx _ | .decAbs _
  | .decAbx _ | .incAbs _ | .incAbx _ | .lsrAbs _ | .lsrAbx _ | .rolAbs _ | .rolAbx _ | .rorAbs _ | .rorAbx _
  | .jmpAbs _ | .jmpInd _ | .jsr _ => true

end Sys2Proof
end

