-- ==== Sys2Proof/Decode.lean ====
section
/-! DEFINITION. Bytes to instructions and back (rules R81, R140, R141, R150, R152). The whole opcode byte selects the
row of rule R150; operand bytes follow it, a 16-bit operand low byte first. -/

namespace Sys2Proof

/-- The high byte of a word (rule R7). -/
def hiByte (w : Word) : Byte := w.extractLsb' 8 8

/-- The low byte of a word (rule R7). -/
def loByte (w : Word) : Byte := w.extractLsb' 0 8

/-- `h ++ l`, the word with high byte `h` and low byte `l` (rules R7, R81). -/
def joinBytes (h l : Byte) : Word := h ++ l

/-- Why a byte sequence is no instruction. -/
inductive DecodeError where
  /-- No byte at all. -/
  | noBytes
  /-- The opcode byte is one of the 105 illegal ones (rule R152). -/
  | illegalOpcode (op : Byte)
  /-- The opcode is legal and an operand byte is missing (rule R141). -/
  | missingOperand (op : Byte)
deriving DecidableEq, Repr

/-- The row of rule R150 that an opcode byte selects, with the two bytes after it as its operand: `b1` and `b2` are
bytes 1 and 2 of rule R141, read where the row's format has them. -/
def opcodeRow (op b1 b2 : Byte) : Option Instr :=
  match op.toNat with
  | 0x00 => some .brk
  | 0x01 => some (.oraIzx b1)
  | 0x05 => some (.oraZp b1)
  | 0x06 => some (.aslZp b1)
  | 0x08 => some .php
  | 0x09 => some (.oraImm b1)
  | 0x0A => some .aslAcc
  | 0x0D => some (.oraAbs (joinBytes b2 b1))
  | 0x0E => some (.aslAbs (joinBytes b2 b1))
  | 0x10 => some (.bpl b1.toInt)
  | 0x11 => some (.oraIzy b1)
  | 0x15 => some (.oraZpx b1)
  | 0x16 => some (.aslZpx b1)
  | 0x18 => some .clc
  | 0x19 => some (.oraAby (joinBytes b2 b1))
  | 0x1D => some (.oraAbx (joinBytes b2 b1))
  | 0x1E => some (.aslAbx (joinBytes b2 b1))
  | 0x20 => some (.jsr (joinBytes b2 b1))
  | 0x21 => some (.andIzx b1)
  | 0x24 => some (.bitZp b1)
  | 0x25 => some (.andZp b1)
  | 0x26 => some (.rolZp b1)
  | 0x28 => some .plp
  | 0x29 => some (.andImm b1)
  | 0x2A => some .rolAcc
  | 0x2C => some (.bitAbs (joinBytes b2 b1))
  | 0x2D => some (.andAbs (joinBytes b2 b1))
  | 0x2E => some (.rolAbs (joinBytes b2 b1))
  | 0x30 => some (.bmi b1.toInt)
  | 0x31 => some (.andIzy b1)
  | 0x35 => some (.andZpx b1)
  | 0x36 => some (.rolZpx b1)
  | 0x38 => some .sec
  | 0x39 => some (.andAby (joinBytes b2 b1))
  | 0x3D => some (.andAbx (joinBytes b2 b1))
  | 0x3E => some (.rolAbx (joinBytes b2 b1))
  | 0x40 => some .rti
  | 0x41 => some (.eorIzx b1)
  | 0x45 => some (.eorZp b1)
  | 0x46 => some (.lsrZp b1)
  | 0x48 => some .pha
  | 0x49 => some (.eorImm b1)
  | 0x4A => some .lsrAcc
  | 0x4C => some (.jmpAbs (joinBytes b2 b1))
  | 0x4D => some (.eorAbs (joinBytes b2 b1))
  | 0x4E => some (.lsrAbs (joinBytes b2 b1))
  | 0x50 => some (.bvc b1.toInt)
  | 0x51 => some (.eorIzy b1)
  | 0x55 => some (.eorZpx b1)
  | 0x56 => some (.lsrZpx b1)
  | 0x58 => some .cli
  | 0x59 => some (.eorAby (joinBytes b2 b1))
  | 0x5D => some (.eorAbx (joinBytes b2 b1))
  | 0x5E => some (.lsrAbx (joinBytes b2 b1))
  | 0x60 => some .rts
  | 0x61 => some (.adcIzx b1)
  | 0x65 => some (.adcZp b1)
  | 0x66 => some (.rorZp b1)
  | 0x68 => some .pla
  | 0x69 => some (.adcImm b1)
  | 0x6A => some .rorAcc
  | 0x6C => some (.jmpInd (joinBytes b2 b1))
  | 0x6D => some (.adcAbs (joinBytes b2 b1))
  | 0x6E => some (.rorAbs (joinBytes b2 b1))
  | 0x70 => some (.bvs b1.toInt)
  | 0x71 => some (.adcIzy b1)
  | 0x75 => some (.adcZpx b1)
  | 0x76 => some (.rorZpx b1)
  | 0x78 => some .sei
  | 0x79 => some (.adcAby (joinBytes b2 b1))
  | 0x7D => some (.adcAbx (joinBytes b2 b1))
  | 0x7E => some (.rorAbx (joinBytes b2 b1))
  | 0x81 => some (.staIzx b1)
  | 0x84 => some (.styZp b1)
  | 0x85 => some (.staZp b1)
  | 0x86 => some (.stxZp b1)
  | 0x88 => some .dey
  | 0x8A => some .txa
  | 0x8C => some (.styAbs (joinBytes b2 b1))
  | 0x8D => some (.staAbs (joinBytes b2 b1))
  | 0x8E => some (.stxAbs (joinBytes b2 b1))
  | 0x90 => some (.bcc b1.toInt)
  | 0x91 => some (.staIzy b1)
  | 0x94 => some (.styZpx b1)
  | 0x95 => some (.staZpx b1)
  | 0x96 => some (.stxZpy b1)
  | 0x98 => some .tya
  | 0x99 => some (.staAby (joinBytes b2 b1))
  | 0x9A => some .txs
  | 0x9D => some (.staAbx (joinBytes b2 b1))
  | 0xA0 => some (.ldyImm b1)
  | 0xA1 => some (.ldaIzx b1)
  | 0xA2 => some (.ldxImm b1)
  | 0xA4 => some (.ldyZp b1)
  | 0xA5 => some (.ldaZp b1)
  | 0xA6 => some (.ldxZp b1)
  | 0xA8 => some .tay
  | 0xA9 => some (.ldaImm b1)
  | 0xAA => some .tax
  | 0xAC => some (.ldyAbs (joinBytes b2 b1))
  | 0xAD => some (.ldaAbs (joinBytes b2 b1))
  | 0xAE => some (.ldxAbs (joinBytes b2 b1))
  | 0xB0 => some (.bcs b1.toInt)
  | 0xB1 => some (.ldaIzy b1)
  | 0xB4 => some (.ldyZpx b1)
  | 0xB5 => some (.ldaZpx b1)
  | 0xB6 => some (.ldxZpy b1)
  | 0xB8 => some .clv
  | 0xB9 => some (.ldaAby (joinBytes b2 b1))
  | 0xBA => some .tsx
  | 0xBC => some (.ldyAbx (joinBytes b2 b1))
  | 0xBD => some (.ldaAbx (joinBytes b2 b1))
  | 0xBE => some (.ldxAby (joinBytes b2 b1))
  | 0xC0 => some (.cpyImm b1)
  | 0xC1 => some (.cmpIzx b1)
  | 0xC4 => some (.cpyZp b1)
  | 0xC5 => some (.cmpZp b1)
  | 0xC6 => some (.decZp b1)
  | 0xC8 => some .iny
  | 0xC9 => some (.cmpImm b1)
  | 0xCA => some .dex
  | 0xCC => some (.cpyAbs (joinBytes b2 b1))
  | 0xCD => some (.cmpAbs (joinBytes b2 b1))
  | 0xCE => some (.decAbs (joinBytes b2 b1))
  | 0xD0 => some (.bne b1.toInt)
  | 0xD1 => some (.cmpIzy b1)
  | 0xD5 => some (.cmpZpx b1)
  | 0xD6 => some (.decZpx b1)
  | 0xD8 => some .cld
  | 0xD9 => some (.cmpAby (joinBytes b2 b1))
  | 0xDD => some (.cmpAbx (joinBytes b2 b1))
  | 0xDE => some (.decAbx (joinBytes b2 b1))
  | 0xE0 => some (.cpxImm b1)
  | 0xE1 => some (.sbcIzx b1)
  | 0xE4 => some (.cpxZp b1)
  | 0xE5 => some (.sbcZp b1)
  | 0xE6 => some (.incZp b1)
  | 0xE8 => some .inx
  | 0xE9 => some (.sbcImm b1)
  | 0xEA => some .nop
  | 0xEC => some (.cpxAbs (joinBytes b2 b1))
  | 0xED => some (.sbcAbs (joinBytes b2 b1))
  | 0xEE => some (.incAbs (joinBytes b2 b1))
  | 0xF0 => some (.beq b1.toInt)
  | 0xF1 => some (.sbcIzy b1)
  | 0xF5 => some (.sbcZpx b1)
  | 0xF6 => some (.incZpx b1)
  | 0xF8 => some .sed
  | 0xF9 => some (.sbcAby (joinBytes b2 b1))
  | 0xFD => some (.sbcAbx (joinBytes b2 b1))
  | 0xFE => some (.incAbx (joinBytes b2 b1))
  | _ => none

/-- The number of operand bytes after the opcode (rule R141); BRK has none (rule R140). -/
def Instr.operandBytes : Instr → Nat
  | .aslAcc | .lsrAcc | .rolAcc | .rorAcc | .clc | .cld | .cli | .clv | .dex | .dey | .inx | .iny | .nop | .sec
  | .sed | .sei | .tax | .tay | .tsx | .txa | .txs | .tya | .pha | .php | .pla | .plp | .rts | .brk | .rti => 0
  | .adcIzx _ | .adcZp _ | .adcImm _ | .adcIzy _ | .adcZpx _ | .andIzx _ | .andZp _ | .andImm _ | .andIzy _
  | .andZpx _ | .bitZp _ | .cmpIzx _ | .cmpZp _ | .cmpImm _ | .cmpIzy _ | .cmpZpx _ | .cpxImm _ | .cpxZp _
  | .cpyImm _ | .cpyZp _ | .eorIzx _ | .eorZp _ | .eorImm _ | .eorIzy _ | .eorZpx _ | .ldaIzx _ | .ldaZp _
  | .ldaImm _ | .ldaIzy _ | .ldaZpx _ | .ldxImm _ | .ldxZp _ | .ldxZpy _ | .ldyImm _ | .ldyZp _ | .ldyZpx _
  | .oraIzx _ | .oraZp _ | .oraImm _ | .oraIzy _ | .oraZpx _ | .sbcIzx _ | .sbcZp _ | .sbcImm _ | .sbcIzy _
  | .sbcZpx _ | .staIzx _ | .staZp _ | .staIzy _ | .staZpx _ | .stxZp _ | .stxZpy _ | .styZp _ | .styZpx _ | .aslZp _
  | .aslZpx _ | .decZp _ | .decZpx _ | .incZp _ | .incZpx _ | .lsrZp _ | .lsrZpx _ | .rolZp _ | .rolZpx _ | .rorZp _
  | .rorZpx _ => 1
  | .bcc _ | .bcs _ | .beq _ | .bmi _ | .bne _ | .bpl _ | .bvc _ | .bvs _ => 1
  | .adcAbs _ | .adcAby _ | .adcAbx _ | .andAbs _ | .andAby _ | .andAbx _ | .bitAbs _ | .cmpAbs _ | .cmpAby _
  | .cmpAbx _ | .cpxAbs _ | .cpyAbs _ | .eorAbs _ | .eorAby _ | .eorAbx _ | .ldaAbs _ | .ldaAby _ | .ldaAbx _
  | .ldxAbs _ | .ldxAby _ | .ldyAbs _ | .ldyAbx _ | .oraAbs _ | .oraAby _ | .oraAbx _ | .sbcAbs _ | .sbcAby _
  | .sbcAbx _ | .staAbs _ | .staAby _ | .staAbx _ | .stxAbs _ | .styAbs _ | .aslAbs _ | .aslAbx _ | .decAbs _
  | .decAbx _ | .incAbs _ | .incAbx _ | .lsrAbs _ | .lsrAbx _ | .rolAbs _ | .rolAbx _ | .rorAbs _ | .rorAbx _
  | .jmpAbs _ | .jmpInd _ | .jsr _ => 2

/-- The length in bytes, a function of the addressing mode alone (rules R140, R141). -/
def Instr.length (i : Instr) : Nat := 1 + i.operandBytes

/-- The decoder: total on any bytes; the instruction and the bytes after it, or the reason there is none. -/
def decode : List Byte → Except DecodeError (Instr × List Byte)
  | [] => .error .noBytes
  | op :: rest =>
    match opcodeRow op (rest.getD 0 0) (rest.getD 1 0) with
    | none => .error (.illegalOpcode op)
    | some i =>
      if i.operandBytes ≤ rest.length then .ok (i, rest.drop i.operandBytes)
      else .error (.missingOperand op)

/-- The opcode byte of an instruction (rule R151, read by mnemonic and mode). -/
def Instr.opcode : Instr → Byte
  | .adcIzx _ => 0x61
  | .adcZp _ => 0x65
  | .adcImm _ => 0x69
  | .adcAbs _ => 0x6D
  | .adcIzy _ => 0x71
  | .adcZpx _ => 0x75
  | .adcAby _ => 0x79
  | .adcAbx _ => 0x7D
  | .andIzx _ => 0x21
  | .andZp _ => 0x25
  | .andImm _ => 0x29
  | .andAbs _ => 0x2D
  | .andIzy _ => 0x31
  | .andZpx _ => 0x35
  | .andAby _ => 0x39
  | .andAbx _ => 0x3D
  | .bitZp _ => 0x24
  | .bitAbs _ => 0x2C
  | .cmpIzx _ => 0xC1
  | .cmpZp _ => 0xC5
  | .cmpImm _ => 0xC9
  | .cmpAbs _ => 0xCD
  | .cmpIzy _ => 0xD1
  | .cmpZpx _ => 0xD5
  | .cmpAby _ => 0xD9
  | .cmpAbx _ => 0xDD
  | .cpxImm _ => 0xE0
  | .cpxZp _ => 0xE4
  | .cpxAbs _ => 0xEC
  | .cpyImm _ => 0xC0
  | .cpyZp _ => 0xC4
  | .cpyAbs _ => 0xCC
  | .eorIzx _ => 0x41
  | .eorZp _ => 0x45
  | .eorImm _ => 0x49
  | .eorAbs _ => 0x4D
  | .eorIzy _ => 0x51
  | .eorZpx _ => 0x55
  | .eorAby _ => 0x59
  | .eorAbx _ => 0x5D
  | .ldaIzx _ => 0xA1
  | .ldaZp _ => 0xA5
  | .ldaImm _ => 0xA9
  | .ldaAbs _ => 0xAD
  | .ldaIzy _ => 0xB1
  | .ldaZpx _ => 0xB5
  | .ldaAby _ => 0xB9
  | .ldaAbx _ => 0xBD
  | .ldxImm _ => 0xA2
  | .ldxZp _ => 0xA6
  | .ldxAbs _ => 0xAE
  | .ldxZpy _ => 0xB6
  | .ldxAby _ => 0xBE
  | .ldyImm _ => 0xA0
  | .ldyZp _ => 0xA4
  | .ldyAbs _ => 0xAC
  | .ldyZpx _ => 0xB4
  | .ldyAbx _ => 0xBC
  | .oraIzx _ => 0x01
  | .oraZp _ => 0x05
  | .oraImm _ => 0x09
  | .oraAbs _ => 0x0D
  | .oraIzy _ => 0x11
  | .oraZpx _ => 0x15
  | .oraAby _ => 0x19
  | .oraAbx _ => 0x1D
  | .sbcIzx _ => 0xE1
  | .sbcZp _ => 0xE5
  | .sbcImm _ => 0xE9
  | .sbcAbs _ => 0xED
  | .sbcIzy _ => 0xF1
  | .sbcZpx _ => 0xF5
  | .sbcAby _ => 0xF9
  | .sbcAbx _ => 0xFD
  | .staIzx _ => 0x81
  | .staZp _ => 0x85
  | .staAbs _ => 0x8D
  | .staIzy _ => 0x91
  | .staZpx _ => 0x95
  | .staAby _ => 0x99
  | .staAbx _ => 0x9D
  | .stxZp _ => 0x86
  | .stxAbs _ => 0x8E
  | .stxZpy _ => 0x96
  | .styZp _ => 0x84
  | .styAbs _ => 0x8C
  | .styZpx _ => 0x94
  | .aslZp _ => 0x06
  | .aslAcc => 0x0A
  | .aslAbs _ => 0x0E
  | .aslZpx _ => 0x16
  | .aslAbx _ => 0x1E
  | .decZp _ => 0xC6
  | .decAbs _ => 0xCE
  | .decZpx _ => 0xD6
  | .decAbx _ => 0xDE
  | .incZp _ => 0xE6
  | .incAbs _ => 0xEE
  | .incZpx _ => 0xF6
  | .incAbx _ => 0xFE
  | .lsrZp _ => 0x46
  | .lsrAcc => 0x4A
  | .lsrAbs _ => 0x4E
  | .lsrZpx _ => 0x56
  | .lsrAbx _ => 0x5E
  | .rolZp _ => 0x26
  | .rolAcc => 0x2A
  | .rolAbs _ => 0x2E
  | .rolZpx _ => 0x36
  | .rolAbx _ => 0x3E
  | .rorZp _ => 0x66
  | .rorAcc => 0x6A
  | .rorAbs _ => 0x6E
  | .rorZpx _ => 0x76
  | .rorAbx _ => 0x7E
  | .clc => 0x18
  | .cld => 0xD8
  | .cli => 0x58
  | .clv => 0xB8
  | .dex => 0xCA
  | .dey => 0x88
  | .inx => 0xE8
  | .iny => 0xC8
  | .nop => 0xEA
  | .sec => 0x38
  | .sed => 0xF8
  | .sei => 0x78
  | .tax => 0xAA
  | .tay => 0xA8
  | .tsx => 0xBA
  | .txa => 0x8A
  | .txs => 0x9A
  | .tya => 0x98
  | .bcc _ => 0x90
  | .bcs _ => 0xB0
  | .beq _ => 0xF0
  | .bmi _ => 0x30
  | .bne _ => 0xD0
  | .bpl _ => 0x10
  | .bvc _ => 0x50
  | .bvs _ => 0x70
  | .jmpAbs _ => 0x4C
  | .jmpInd _ => 0x6C
  | .jsr _ => 0x20
  | .pha => 0x48
  | .php => 0x08
  | .pla => 0x68
  | .plp => 0x28
  | .rts => 0x60
  | .brk => 0x00
  | .rti => 0x40

/-- The operand bytes of an instruction, a 16-bit operand low byte first (rules R81, R141); an offset as its
two's-complement byte (rule R300). -/
def Instr.operand : Instr → List Byte
  | .aslAcc | .lsrAcc | .rolAcc | .rorAcc | .clc | .cld | .cli | .clv | .dex | .dey | .inx | .iny | .nop | .sec
  | .sed | .sei | .tax | .tay | .tsx | .txa | .txs | .tya | .pha | .php | .pla | .plp | .rts | .brk | .rti => []
  | .adcIzx b | .adcZp b | .adcImm b | .adcIzy b | .adcZpx b | .andIzx b | .andZp b | .andImm b | .andIzy b
  | .andZpx b | .bitZp b | .cmpIzx b | .cmpZp b | .cmpImm b | .cmpIzy b | .cmpZpx b | .cpxImm b | .cpxZp b
  | .cpyImm b | .cpyZp b | .eorIzx b | .eorZp b | .eorImm b | .eorIzy b | .eorZpx b | .ldaIzx b | .ldaZp b
  | .ldaImm b | .ldaIzy b | .ldaZpx b | .ldxImm b | .ldxZp b | .ldxZpy b | .ldyImm b | .ldyZp b | .ldyZpx b
  | .oraIzx b | .oraZp b | .oraImm b | .oraIzy b | .oraZpx b | .sbcIzx b | .sbcZp b | .sbcImm b | .sbcIzy b
  | .sbcZpx b | .staIzx b | .staZp b | .staIzy b | .staZpx b | .stxZp b | .stxZpy b | .styZp b | .styZpx b | .aslZp b
  | .aslZpx b | .decZp b | .decZpx b | .incZp b | .incZpx b | .lsrZp b | .lsrZpx b | .rolZp b | .rolZpx b | .rorZp b
  | .rorZpx b => [b]
  | .adcAbs a | .adcAby a | .adcAbx a | .andAbs a | .andAby a | .andAbx a | .bitAbs a | .cmpAbs a | .cmpAby a
  | .cmpAbx a | .cpxAbs a | .cpyAbs a | .eorAbs a | .eorAby a | .eorAbx a | .ldaAbs a | .ldaAby a | .ldaAbx a
  | .ldxAbs a | .ldxAby a | .ldyAbs a | .ldyAbx a | .oraAbs a | .oraAby a | .oraAbx a | .sbcAbs a | .sbcAby a
  | .sbcAbx a | .staAbs a | .staAby a | .staAbx a | .stxAbs a | .styAbs a | .aslAbs a | .aslAbx a | .decAbs a
  | .decAbx a | .incAbs a | .incAbx a | .lsrAbs a | .lsrAbx a | .rolAbs a | .rolAbx a | .rorAbs a | .rorAbx a
  | .jmpAbs a | .jmpInd a | .jsr a => [loByte a, hiByte a]
  | .bcc off | .bcs off | .beq off | .bmi off | .bne off | .bpl off | .bvc off | .bvs off => [BitVec.ofInt 8 off]

/-- The encoder: the bytes of an instruction (of its encoding, when it is well formed). -/
def encode (i : Instr) : List Byte := i.opcode :: i.operand

/-- The byte number `k` of a number whose bit 0 is the least significant bit of the first byte. -/
def tableByte (w k : Nat) : Byte := BitVec.ofNat 8 (w >>> (8 * k))

/-- The instruction the decoder reads from a table word: `nbits` bits given, the bits above them 0, laid out low byte
first up to the longest instruction (3 bytes, rule R140). -/
def decodeTableWord (nbits w : Nat) : Option Instr :=
  let w := w % 2 ^ nbits
  match decode [tableByte w 0, tableByte w 1, tableByte w 2] with
  | .ok (i, _) => some i
  | .error _ => none

end Sys2Proof
end

