-- ==== Sys2Proof/Config.lean ====
section
/-! DEFINITION. What is fixed for the machine and no step changes: the numbers of rule R4, the table of rule R436, the
defaults of the audio parameters (R4, R434), and the free values, which have no body, so that nothing can be proved of them: the sample path (rule R470,
U6), a read of no device (R96, U3), PPUDATA while rendering (R584, U8). The cartridge, the power-on record and
the audio parameters are arguments of construct (Machine/HostOps.lean) and stand in State. -/

namespace Sys2Proof.Config

/-- The CPU clock in Hz (rules R4, R492). -/
def cpuClock : Nat := 1789773

/-- The default of the parameter OUTPUT_RATE, in Hz (rule R4; log 11). -/
def defaultOutputRate : Nat := 44100

/-- N for an output rate: the APU steps per filter input (rule R470). -/
def samplePeriod (outputRate : Nat) : Nat := cpuClock / (outputRate * 2)

/-- The length of the FIR history ring (rules R44, R470). -/
def firTaps : Nat := 33

/-- The byte on `db` after a read that selects no device, in a cycle (rule R96: a proof treats it as unspecified; U3). A
free value (log 7). -/
opaque openBus : Nat → Byte

/-- The data of the n-th PPUDATA access made while rendering (rule R584, U8: unspecified). A free value (log 8). -/
opaque contendedByte : Nat → Byte

/-- FIR[0..32]: the tap coefficients, which the source does not contain (rule R4, D44). A free value (log 10). -/
opaque fir : Nat → Rat

/-- HPF: the first-order high-pass filter, from its previous input, its previous output and the new input to the new
output; its coefficient is not in the source (rule R470, D44). A free value (log 10). -/
opaque highPass : Rat → Rat → Rat → Rat

/-- The rounding of a filtered sample to the 32-bit float the ring holds (rule R470). A free value (log 10). -/
opaque toSample : Rat → Rat

/-- RING_LEN − 1: the spec gives only RING_LEN ≥ 1 (rule R4). A free value (log 10). -/
opaque ringLenPred : Nat

/-- RING_LEN (rule R4). -/
def ringLen : Nat := ringLenPred + 1

/-- The default of the parameter DUTY[0..3][0..7] (rule R434, D39; log 11). -/
def defaultDuty : Vector (Vector Bool 8) 4 :=
  #v[ #v[false, true,  false, false, false, false, false, false],
      #v[false, true,  true,  false, false, false, false, false],
      #v[false, true,  true,  true,  true,  false, false, false],
      #v[true,  false, false, true,  true,  true,  true,  true] ]

/-- LENGTH_TABLE (rule R436, D40). -/
def lengthTable : List Nat :=
  [10, 254, 20, 2, 40, 4, 80, 6, 160, 8, 60, 10, 14, 12, 26, 14] ++
  [12, 16, 24, 18, 48, 20, 96, 22, 192, 24, 72, 26, 16, 28, 32, 30]

end Sys2Proof.Config
end

