-- ==== Sys2Proof/Machine/State.lean ====
section
/-! DEFINITION. Everything the spec gives the machine, as plain data (spec 10_state.md, rules R20 to R46; the reset
values of rule R571), with the reasons a step can stop (rules R9, R521). -/

namespace Sys2Proof.Machine

/-- A memory: (address, byte) pairs, addresses strictly rising, no byte equal to what an unlisted address reads as
(`Memory.wf`, Machine/Cells.lean). An unlisted address reads as 0 (rule R571: every memory is 0 by default; log 4). -/
abbrev Memory := List Host.Cell

/-- The direction of a bus access (rules R6, R26). -/
inductive Dir where
  | read
  | write
deriving DecidableEq, Repr

/-! ## Reasons to stop -/

/-- Why the machine stops (the closed list of rules R9 and R521). Each is safe: a stopped machine proves nothing of a
program (rule R520), and the spec names every one of them but the last. -/
inductive Fault where
  /-- The CPU's T2 step: the opcode fetched at `addr` is not in the opcode table (rules R152, R185). Safe. -/
  | illegalOpcode (op : Byte) (addr : Word)
  /-- A CPU-bus access, dummy cycles and DMA included, of 0x4018..0x401F (rule R95). Safe. -/
  | reservedIO (addr : Word) (dir : Dir)
  /-- A PPUDATA write below PPU address 0x2000, when the harness serves it (rule R105). Safe. -/
  | chrWrite (addr : BitVec 14)
  /-- construct, of a cartridge of a disallowed size (rule R523). Safe. -/
  | cartridgeSize
  /-- A CPU-bus access of 0x4020..0x5FFF, or of 0x6000..0x7FFF without PRG-RAM (rule R102), or a PPU-bus read beyond
  CHR-ROM (rule R104). Safe. -/
  | cartridgeUnmapped (addr : Nat)
  /-- A CPU-bus write of 0x8000..0xFFFF (rule R103). Safe. -/
  | romWrite (addr : Word)
  /-- A sprite pattern fetch with sprite height 16 (rule R368). Safe. -/
  | unmodelled8x16
  /-- The model's own: the cycle table of `ir` has no row `t` (rule R180 defines none). No run reaches it (log 13). Safe. -/
  | noSuchCycle (op : Byte) (t : Nat)
deriving DecidableEq, Repr

/-- Why an instruction has no meaning in this model. Safe: a refused step proves nothing. -/
inductive Refusal where
  /-- exec's arm of an instruction that has no meaning yet. Safe. -/
  | notModelled (mnemonic : String)
deriving DecidableEq, Repr

/-! ## CPU (rules R20 to R29) -/

/-- The six flags; there is no stored break flag and no stored bit 5 (rule R23). -/
structure Flags where
  c : Bool
  z : Bool
  i : Bool
  d : Bool
  v : Bool
  n : Bool
deriving DecidableEq, Repr

/-- The registers a program can name, and the flags (rules R20 to R23). -/
structure Regs where
  a : Byte
  x : Byte
  y : Byte
  s : Byte
  pc : Word
  p : Flags
deriving DecidableEq, Repr

/-- What an interrupt sequence in progress serves (rule R28). -/
inductive IntKind where
  | none
  | reset
  | nmi
  | irq
  | brk
deriving DecidableEq, Repr

/-- The read-and-use operations (rules R183, R231 to R242). -/
inductive ReadOp where
  | adc | and | bit | cmp | cpx | cpy | eor | lda | ldx | ldy | ora | sbc
deriving DecidableEq, Repr

/-- What an instruction leaves to the next T1 step (the closed list of rule R183). -/
inductive Deferred where
  /-- NoDeferred. -/
  | none
  /-- DefOp(mn): a read-and-use operation on the byte on `db`. -/
  | op (o : ReadOp)
  /-- DefPullA: PLA. -/
  | pullA
  /-- DefPullP: PLP. -/
  | pullP
  /-- DefJump(l): load PC, `l` the saved low byte. -/
  | jump (l : Byte)
deriving DecidableEq, Repr

/-- The CPU: registers, bus interface (R26), instruction register (R27), pending interrupts (R28), execution state
(R29), and its RESET input (R6, R186). -/
structure Cpu where
  regs : Regs
  ab : Word
  db : Byte
  rw : Dir
  sync : Bool
  ir : Byte
  pendingReset : Bool
  pendingNmi : Bool
  nmiPrev : Bool
  irqLine : Bool
  resetLine : Bool
  intKind : IntKind
  t : Nat
  lo : Byte
  hi : Byte
  ptr : Byte
  ea : Word
  m : Byte
  deferred : Deferred
deriving DecidableEq, Repr

/-! ## DMA engine, controller port, cartridge (rules R31 to R33, R4) -/

/-- The OAM-DMA engine (rule R31). -/
structure Dma where
  active : Bool
  page : Byte
  align : Bool
  pending : Nat
  latch : Byte
deriving DecidableEq, Repr

/-- The controller port (rule R32), and the answers the host will give to ReadControllers, one consumed at each falling
edge of the latch (rule R502; log 9). -/
structure Controller where
  latch : Bool
  sr1 : Byte
  sr2 : Byte
  answers : List (Byte × Byte)
deriving DecidableEq, Repr

/-- Nametable mirroring (rules R4, R111). -/
inductive Mirroring where
  | horizontal
  | vertical
deriving DecidableEq, Repr

/-- The cartridge value given to construct (rules R4, R510): fixed data, which no step changes (rule R47). -/
structure Cartridge where
  prgRom : Memory
  prgRomLen : Nat
  prgRamLen : Nat
  chrRom : Memory
  chrRomLen : Nat
  mirroring : Mirroring
deriving DecidableEq, Repr

/-! ## PPU (rules R34 to R40, R45) -/

/-- A plane-pair shift register of width `n` (rule R45). -/
structure PlanePair (n : Nat) where
  u : BitVec n
  l : BitVec n
deriving DecidableEq, Repr

/-- PPUCTRL (rules R34, R342); bit 6 is not stored. -/
structure PpuCtrl where
  nametableSelect : BitVec 2
  vramIncrement : Bool
  sprPtBase : Bool
  bgPtBase : Bool
  spriteHeight16 : Bool
  generateVblankNmi : Bool
deriving DecidableEq, Repr

/-- PPUMASK (rules R34, R343). -/
structure PpuMask where
  greyscale : Bool
  showBgLeft : Bool
  showSprLeft : Bool
  showBackground : Bool
  showSprites : Bool
  emphasis : BitVec 3
deriving DecidableEq, Repr

/-- A sprite slot (rule R38). -/
structure Slot where
  pat : PlanePair 8
  attr : Byte
  xcnt : Byte
deriving DecidableEq, Repr

/-- The picture processor. -/
structure Ppu where
  ctrl : PpuCtrl
  mask : PpuMask
  vblankStarted : Bool
  sprite0Hit : Bool
  spriteOverflow : Bool
  oamAddr : Byte
  dataBuffer : Byte
  v : BitVec 15
  t : BitVec 15
  fineX : BitVec 3
  w : Bool
  oam : Memory
  secOam : Memory
  secCount : Nat
  palette : Memory
  bgPat : PlanePair 16
  bgPal : PlanePair 8
  palLatch : BitVec 2
  ntByte : Byte
  atByte : Byte
  ptLo : Byte
  ptHi : Byte
  slots : List Slot
  sprLo : Byte
  scanline : Nat
  dot : Nat
  oddFrame : Bool
  frameBuffer : Memory
  frameComplete : Bool
  cpuReg : BitVec 3
  cpuData : Byte
  cpuRw : Dir
  access : Bool
  vramAddr : BitVec 14
  vramData : Byte
  vramRd : Bool
  vramWr : Bool
  fillPending : Bool
  /-- The model's own: how many free bytes PPUDATA accesses while rendering have taken (rule R584; log 8). -/
  contention : Nat
deriving DecidableEq, Repr

/-! ## APU (rules R41 to R44, R46) -/

/-- A bit-timer of width `n` (rule R46). -/
structure BitTimer (n : Nat) where
  counter : BitVec n
  reload : BitVec n
deriving DecidableEq, Repr

/-- The frame counter's mode (rule R41). -/
inductive FrameMode where
  | fourStep
  | fiveStep
deriving DecidableEq, Repr

/-- A length counter (rules R42, R43). -/
structure LengthCounter where
  counter : BitVec 8
  halt : Bool
deriving DecidableEq, Repr

/-- An envelope generator (rule R42). -/
structure Envelope where
  start : Bool
  loop : Bool
  constantVolume : Bool
  param : BitVec 4
  divider : BitTimer 4
  decayLevel : BitVec 4
deriving DecidableEq, Repr

/-- A sweep unit (rule R42). -/
structure Sweep where
  enabled : Bool
  period : BitVec 3
  negate : Bool
  shift : BitVec 3
  reloadPending : Bool
  divider : BitTimer 3
deriving DecidableEq, Repr

/-- A pulse channel (rule R42). -/
structure Pulse where
  enabled : Bool
  duty : BitVec 2
  seqPos : BitVec 3
  timer : BitTimer 11
  length : LengthCounter
  env : Envelope
  sweep : Sweep
deriving DecidableEq, Repr

/-- The linear counter (rule R43). -/
structure LinearCounter where
  counter : BitVec 7
  reloadValue : BitVec 7
  reloadLatch : Bool
  control : Bool
deriving DecidableEq, Repr

/-- The triangle channel (rule R43). -/
structure Triangle where
  enabled : Bool
  timer : BitTimer 11
  seqPos : BitVec 5
  length : LengthCounter
  linear : LinearCounter
deriving DecidableEq, Repr

/-- The sample path (rules R44, R470): its counters, the high-pass filter's previous input and output, the FIR history
ring with its last-written index, and the output ring, a sparse list of (position, sample) with unwritten positions 0. -/
structure SamplePath where
  cycles : Nat
  decimate : Bool
  hpfIn : Rat
  hpfOut : Rat
  history : List Rat
  lastIndex : Nat
  ring : List (Nat × Rat)
  writePos : Nat
deriving DecidableEq, Repr

/-- The audio parameters given to construct: OUTPUT_RATE and DUTY[0..3][0..7] (rules R4, R434). -/
structure AudioParams where
  outputRate : Nat
  duty : Vector (Vector Bool 8) 4
deriving DecidableEq, Repr

/-- The audio processor, and its parameters, which no step changes (rule R4). -/
structure Apu where
  params : AudioParams
  mode : FrameMode
  irqInhibit : Bool
  count : Nat
  frameIrq : Bool
  phase : Bool
  pulse1 : Pulse
  pulse2 : Pulse
  triangle : Triangle
  sample : SamplePath
deriving DecidableEq, Repr

/-! ## The machine -/

/-- The whole machine: CPU, harness (R30), DMA, controller port, memories (R33), cartridge, PPU, APU. -/
structure State where
  cpu : Cpu
  cyc : Nat
  fault : Option Fault
  dma : Dma
  ctl : Controller
  ram : Memory
  prgRam : Memory
  vram : Memory
  cart : Cartridge
  ppu : Ppu
  apu : Apu
deriving DecidableEq, Repr

/-- What a step or a meaning answers. -/
abbrev Result := Host.Outcome State Fault Refusal

/-- The open power-on record (rules R4, R571, D15). -/
structure PowerOn where
  a : Byte
  x : Byte
  y : Byte
  s : Byte
  pc : Word
  p : Flags
  ram : Memory
  prgRam : Memory
  vram : Memory
  oam : Memory
  palette : Memory
deriving DecidableEq, Repr

/-- The default power-on record: every bit 0 (rule R571, D15; log 1). -/
def PowerOn.default : PowerOn where
  a := 0
  x := 0
  y := 0
  s := 0
  pc := 0
  p := ⟨false, false, false, false, false, false⟩
  ram := []
  prgRam := []
  vram := []
  oam := []
  palette := []

/-- The blank cartridge of `State.reset`: 32 KiB of PRG-ROM, no PRG-RAM, 8 KiB of CHR-ROM, every byte 0, vertical
mirroring (the spec gives the cartridge no default; log 2). -/
def Cartridge.blank : Cartridge where
  prgRom := []
  prgRomLen := 32768
  prgRamLen := 0
  chrRom := []
  chrRomLen := 8192
  mirroring := .vertical

/-- The CPU after construct (rule R571). -/
def Cpu.powerOn (po : PowerOn) : Cpu where
  regs := ⟨po.a, po.x, po.y, po.s, po.pc, po.p⟩
  ab := 0
  db := 0
  rw := .read
  sync := false
  ir := 0
  pendingReset := true
  pendingNmi := false
  nmiPrev := false
  irqLine := false
  resetLine := false
  intKind := .none
  t := 1
  lo := 0
  hi := 0
  ptr := 0
  ea := 0
  m := 0
  deferred := .none

/-- The PPU after construct (rule R571). -/
def Ppu.powerOn (po : PowerOn) : Ppu where
  ctrl := ⟨0, false, false, false, false, false⟩
  mask := ⟨false, false, false, false, false, 0⟩
  vblankStarted := false
  sprite0Hit := false
  spriteOverflow := false
  oamAddr := 0
  dataBuffer := 0
  v := 0
  t := 0
  fineX := 0
  w := false
  oam := po.oam
  secOam := []
  secCount := 0
  palette := po.palette
  bgPat := ⟨0, 0⟩
  bgPal := ⟨0, 0⟩
  palLatch := 0
  ntByte := 0
  atByte := 0
  ptLo := 0
  ptHi := 0
  slots := List.replicate 8 ⟨⟨0, 0⟩, 0, 0⟩
  sprLo := 0
  scanline := 0
  dot := 0
  oddFrame := false
  frameBuffer := []
  frameComplete := false
  cpuReg := 0
  cpuData := 0
  cpuRw := .read
  access := false
  vramAddr := 0
  vramData := 0
  vramRd := false
  vramWr := false
  fillPending := false
  contention := 0

/-- A pulse channel after construct: every field 0 (rule R571). -/
def Pulse.powerOn : Pulse where
  enabled := false
  duty := 0
  seqPos := 0
  timer := ⟨0, 0⟩
  length := ⟨0, false⟩
  env := ⟨false, false, false, 0, ⟨0, 0⟩, 0⟩
  sweep := ⟨false, 0, false, 0, false, ⟨0, 0⟩⟩

/-- The defaults the spec gives the audio parameters (93 part 2; log 11). -/
def AudioParams.default : AudioParams := ⟨Config.defaultOutputRate, Config.defaultDuty⟩

/-- The APU after construct (rule R571). -/
def Apu.powerOn (params : AudioParams) : Apu where
  params := params
  mode := .fourStep
  irqInhibit := false
  count := 0
  frameIrq := false
  phase := false
  pulse1 := Pulse.powerOn
  pulse2 := Pulse.powerOn
  triangle := ⟨false, ⟨0, 0⟩, 0, ⟨0, false⟩, ⟨0, 0, false, false⟩⟩
  sample := ⟨0, false, 0, 0, List.replicate Config.firTaps 0, 0, [], 0⟩

/-- The state construct produces for a cartridge, a power-on record and the audio parameters (rules R4, R571). -/
def State.powerOn (cart : Cartridge) (po : PowerOn) (audio : AudioParams) : State where
  cpu := Cpu.powerOn po
  cyc := 0
  fault := none
  dma := ⟨false, 0, false, 0, 0⟩
  ctl := ⟨false, 0, 0, []⟩
  ram := po.ram
  prgRam := po.prgRam
  vram := po.vram
  cart := cart
  ppu := Ppu.powerOn po
  apu := Apu.powerOn audio

/-- The machine right after reset: the power-on state with reset pending (rules R570, R571), of the blank cartridge and
the default power-on record and audio parameters (logs 1, 2 and 11). No program stands in it; log 3 says how one comes to run. -/
def State.reset : State := State.powerOn Cartridge.blank PowerOn.default AudioParams.default

end Sys2Proof.Machine
end

