-- ==== Sys2Proof/Machine/Form.lean ====
section
/-! DEFINITION. The shape of each instruction (the shape column of rule R150; rules R200, R181): which operation, which operand form. The tick-level cycle table (Machine/Cycle.lean), the fetch, and the statements read it; the meanings do not. -/

namespace Sys2Proof.Machine

/-- An operand form of the nine modes with cycle tables of their own (rules R190 to R196), with its operand. -/
inductive Operand where
  | imm (b : Byte)
  | zp (b : Byte)
  | zpx (b : Byte)
  | zpy (b : Byte)
  | abs (a : Word)
  | abx (a : Word)
  | aby (a : Word)
  | izx (b : Byte)
  | izy (b : Byte)
deriving DecidableEq, Repr

/-- The source register of a store (rules R251 to R253). -/
inductive StoreReg where
  | a | x | y
deriving DecidableEq, Repr

/-- The read-modify-write operations (rules R261 to R266). -/
inductive RmwOp where
  | asl | lsr | rol | ror | inc | dec
deriving DecidableEq, Repr

/-- The single-byte operations (rules R271 to R288). -/
inductive SingleOp where
  | clc | cld | cli | clv | dex | dey | inx | iny | nop | sec | sed | sei | tax | tay | tsx | txa | txs | tya
deriving DecidableEq, Repr

/-- The branch conditions (rules R301 to R308). -/
inductive Cond where
  | cc | cs | eq | mi | ne | pl | vc | vs
deriving DecidableEq, Repr

/-- The shapes of rule R200. -/
inductive Form where
  | readUse (op : ReadOp) (o : Operand)
  | store (r : StoreReg) (o : Operand)
  | rmw (op : RmwOp) (o : Operand)
  | rmwAcc (op : RmwOp)
  | single (op : SingleOp)
  | branch (k : Cond) (off : Int)
  | pha | php | pla | plp
  | jmp (a : Word)
  | jmpInd (a : Word)
  | jsr (a : Word)
  | rts
  | brk
  | rti
deriving DecidableEq, Repr

/-- The shape of every instruction (rule R150). -/
def formOf : Instr → Form
  | .adcIzx b => .readUse .adc (.izx b)
  | .adcZp b => .readUse .adc (.zp b)
  | .adcImm b => .readUse .adc (.imm b)
  | .adcAbs a => .readUse .adc (.abs a)
  | .adcIzy b => .readUse .adc (.izy b)
  | .adcZpx b => .readUse .adc (.zpx b)
  | .adcAby a => .readUse .adc (.aby a)
  | .adcAbx a => .readUse .adc (.abx a)
  | .andIzx b => .readUse .and (.izx b)
  | .andZp b => .readUse .and (.zp b)
  | .andImm b => .readUse .and (.imm b)
  | .andAbs a => .readUse .and (.abs a)
  | .andIzy b => .readUse .and (.izy b)
  | .andZpx b => .readUse .and (.zpx b)
  | .andAby a => .readUse .and (.aby a)
  | .andAbx a => .readUse .and (.abx a)
  | .bitZp b => .readUse .bit (.zp b)
  | .bitAbs a => .readUse .bit (.abs a)
  | .cmpIzx b => .readUse .cmp (.izx b)
  | .cmpZp b => .readUse .cmp (.zp b)
  | .cmpImm b => .readUse .cmp (.imm b)
  | .cmpAbs a => .readUse .cmp (.abs a)
  | .cmpIzy b => .readUse .cmp (.izy b)
  | .cmpZpx b => .readUse .cmp (.zpx b)
  | .cmpAby a => .readUse .cmp (.aby a)
  | .cmpAbx a => .readUse .cmp (.abx a)
  | .cpxImm b => .readUse .cpx (.imm b)
  | .cpxZp b => .readUse .cpx (.zp b)
  | .cpxAbs a => .readUse .cpx (.abs a)
  | .cpyImm b => .readUse .cpy (.imm b)
  | .cpyZp b => .readUse .cpy (.zp b)
  | .cpyAbs a => .readUse .cpy (.abs a)
  | .eorIzx b => .readUse .eor (.izx b)
  | .eorZp b => .readUse .eor (.zp b)
  | .eorImm b => .readUse .eor (.imm b)
  | .eorAbs a => .readUse .eor (.abs a)
  | .eorIzy b => .readUse .eor (.izy b)
  | .eorZpx b => .readUse .eor (.zpx b)
  | .eorAby a => .readUse .eor (.aby a)
  | .eorAbx a => .readUse .eor (.abx a)
  | .ldaIzx b => .readUse .lda (.izx b)
  | .ldaZp b => .readUse .lda (.zp b)
  | .ldaImm b => .readUse .lda (.imm b)
  | .ldaAbs a => .readUse .lda (.abs a)
  | .ldaIzy b => .readUse .lda (.izy b)
  | .ldaZpx b => .readUse .lda (.zpx b)
  | .ldaAby a => .readUse .lda (.aby a)
  | .ldaAbx a => .readUse .lda (.abx a)
  | .ldxImm b => .readUse .ldx (.imm b)
  | .ldxZp b => .readUse .ldx (.zp b)
  | .ldxAbs a => .readUse .ldx (.abs a)
  | .ldxZpy b => .readUse .ldx (.zpy b)
  | .ldxAby a => .readUse .ldx (.aby a)
  | .ldyImm b => .readUse .ldy (.imm b)
  | .ldyZp b => .readUse .ldy (.zp b)
  | .ldyAbs a => .readUse .ldy (.abs a)
  | .ldyZpx b => .readUse .ldy (.zpx b)
  | .ldyAbx a => .readUse .ldy (.abx a)
  | .oraIzx b => .readUse .ora (.izx b)
  | .oraZp b => .readUse .ora (.zp b)
  | .oraImm b => .readUse .ora (.imm b)
  | .oraAbs a => .readUse .ora (.abs a)
  | .oraIzy b => .readUse .ora (.izy b)
  | .oraZpx b => .readUse .ora (.zpx b)
  | .oraAby a => .readUse .ora (.aby a)
  | .oraAbx a => .readUse .ora (.abx a)
  | .sbcIzx b => .readUse .sbc (.izx b)
  | .sbcZp b => .readUse .sbc (.zp b)
  | .sbcImm b => .readUse .sbc (.imm b)
  | .sbcAbs a => .readUse .sbc (.abs a)
  | .sbcIzy b => .readUse .sbc (.izy b)
  | .sbcZpx b => .readUse .sbc (.zpx b)
  | .sbcAby a => .readUse .sbc (.aby a)
  | .sbcAbx a => .readUse .sbc (.abx a)
  | .staIzx b => .store .a (.izx b)
  | .staZp b => .store .a (.zp b)
  | .staAbs a => .store .a (.abs a)
  | .staIzy b => .store .a (.izy b)
  | .staZpx b => .store .a (.zpx b)
  | .staAby a => .store .a (.aby a)
  | .staAbx a => .store .a (.abx a)
  | .stxZp b => .store .x (.zp b)
  | .stxAbs a => .store .x (.abs a)
  | .stxZpy b => .store .x (.zpy b)
  | .styZp b => .store .y (.zp b)
  | .styAbs a => .store .y (.abs a)
  | .styZpx b => .store .y (.zpx b)
  | .aslZp b => .rmw .asl (.zp b)
  | .aslAcc => .rmwAcc .asl
  | .aslAbs a => .rmw .asl (.abs a)
  | .aslZpx b => .rmw .asl (.zpx b)
  | .aslAbx a => .rmw .asl (.abx a)
  | .decZp b => .rmw .dec (.zp b)
  | .decAbs a => .rmw .dec (.abs a)
  | .decZpx b => .rmw .dec (.zpx b)
  | .decAbx a => .rmw .dec (.abx a)
  | .incZp b => .rmw .inc (.zp b)
  | .incAbs a => .rmw .inc (.abs a)
  | .incZpx b => .rmw .inc (.zpx b)
  | .incAbx a => .rmw .inc (.abx a)
  | .lsrZp b => .rmw .lsr (.zp b)
  | .lsrAcc => .rmwAcc .lsr
  | .lsrAbs a => .rmw .lsr (.abs a)
  | .lsrZpx b => .rmw .lsr (.zpx b)
  | .lsrAbx a => .rmw .lsr (.abx a)
  | .rolZp b => .rmw .rol (.zp b)
  | .rolAcc => .rmwAcc .rol
  | .rolAbs a => .rmw .rol (.abs a)
  | .rolZpx b => .rmw .rol (.zpx b)
  | .rolAbx a => .rmw .rol (.abx a)
  | .rorZp b => .rmw .ror (.zp b)
  | .rorAcc => .rmwAcc .ror
  | .rorAbs a => .rmw .ror (.abs a)
  | .rorZpx b => .rmw .ror (.zpx b)
  | .rorAbx a => .rmw .ror (.abx a)
  | .clc => .single .clc
  | .cld => .single .cld
  | .cli => .single .cli
  | .clv => .single .clv
  | .dex => .single .dex
  | .dey => .single .dey
  | .inx => .single .inx
  | .iny => .single .iny
  | .nop => .single .nop
  | .sec => .single .sec
  | .sed => .single .sed
  | .sei => .single .sei
  | .tax => .single .tax
  | .tay => .single .tay
  | .tsx => .single .tsx
  | .txa => .single .txa
  | .txs => .single .txs
  | .tya => .single .tya
  | .bcc off => .branch .cc off
  | .bcs off => .branch .cs off
  | .beq off => .branch .eq off
  | .bmi off => .branch .mi off
  | .bne off => .branch .ne off
  | .bpl off => .branch .pl off
  | .bvc off => .branch .vc off
  | .bvs off => .branch .vs off
  | .jmpAbs a => .jmp a
  | .jmpInd a => .jmpInd a
  | .jsr a => .jsr a
  | .pha => .pha
  | .php => .php
  | .pla => .pla
  | .plp => .plp
  | .rts => .rts
  | .brk => .brk
  | .rti => .rti

end Sys2Proof.Machine
end

