-- ==== Sys2Proof/Machine/Flags.lean ====
section
/-! DEFINITION. The flag computations and the operations of the instruction families on the registers: what each
instruction computes, without its bus cycles (spec 41, 43, 44, 45; rules R24, R25, R182). -/

namespace Sys2Proof.Machine

/-- SetNZ(v) (rule R182). -/
def Flags.setNZ (p : Flags) (v : Byte) : Flags := { p with n := v.msb, z := decide (v = 0) }

/-- PByte(b): the status as a byte, bit 5 set, `b` in bit 4 (rule R25). -/
def Flags.toByte (p : Flags) (b : Bool) : Byte :=
  BitVec.ofBool p.n ++ BitVec.ofBool p.v ++ 1#1 ++ BitVec.ofBool b ++
    BitVec.ofBool p.d ++ BitVec.ofBool p.i ++ BitVec.ofBool p.z ++ BitVec.ofBool p.c

/-- SetP(v): the flags of a byte, bits 5 and 4 ignored (rule R25). -/
def Flags.ofByte (v : Byte) : Flags where
  c := v.getLsbD 0
  z := v.getLsbD 1
  i := v.getLsbD 2
  d := v.getLsbD 3
  v := v.getLsbD 6
  n := v.getLsbD 7

/-! ## Read-and-use operations (rules R231 to R242) -/

/-- Op_ADC (rule R231): the 9-bit sum; carry from bit 8; overflow where the operands' common sign is not the sum's. -/
def opAdc (m : Byte) (r : Regs) : Regs :=
  let sum : BitVec 9 := r.a.setWidth 9 + m.setWidth 9 + (BitVec.ofBool r.p.c).setWidth 9
  let res : Byte := sum.setWidth 8
  let p := { r.p with c := sum.msb, v := ((r.a ^^^ res) &&& (m ^^^ res)).msb }
  { r with a := res, p := p.setNZ res }

/-- Op_SBC (rule R241): ADC of the complement. -/
def opSbc (m : Byte) (r : Regs) : Regs := opAdc (~~~m) r

/-- The compare of a register with memory (rules R233 to R235): carry when register ≥ memory, N and Z of the difference. -/
def Flags.compare (p : Flags) (reg m : Byte) : Flags :=
  { p with c := decide (m.toNat ≤ reg.toNat) }.setNZ (reg - m)

/-- Op_AND (rule R232). -/
def opAnd (m : Byte) (r : Regs) : Regs := { r with a := r.a &&& m, p := r.p.setNZ (r.a &&& m) }

/-- Op_EOR (rule R236). -/
def opEor (m : Byte) (r : Regs) : Regs := { r with a := r.a ^^^ m, p := r.p.setNZ (r.a ^^^ m) }

/-- Op_ORA (rule R240). -/
def opOra (m : Byte) (r : Regs) : Regs := { r with a := r.a ||| m, p := r.p.setNZ (r.a ||| m) }

/-- Op_CMP (rule R233). -/
def opCmp (m : Byte) (r : Regs) : Regs := { r with p := r.p.compare r.a m }

/-- Op_CPX (rule R234). -/
def opCpx (m : Byte) (r : Regs) : Regs := { r with p := r.p.compare r.x m }

/-- Op_CPY (rule R235). -/
def opCpy (m : Byte) (r : Regs) : Regs := { r with p := r.p.compare r.y m }

/-- Op_LDA (rule R237). -/
def opLda (m : Byte) (r : Regs) : Regs := { r with a := m, p := r.p.setNZ m }

/-- Op_LDX (rule R238). -/
def opLdx (m : Byte) (r : Regs) : Regs := { r with x := m, p := r.p.setNZ m }

/-- Op_LDY (rule R239). -/
def opLdy (m : Byte) (r : Regs) : Regs := { r with y := m, p := r.p.setNZ m }

/-- Op_BIT (rule R242): N and V from the memory byte, Z from the and. -/
def opBit (m : Byte) (r : Regs) : Regs :=
  { r with p := { r.p with n := m.getLsbD 7, v := m.getLsbD 6, z := decide (r.a &&& m = 0) } }

/-- Op_mn(M) (rule R183). -/
def ReadOp.run : ReadOp → Byte → Regs → Regs
  | .adc => opAdc
  | .and => opAnd
  | .bit => opBit
  | .cmp => opCmp
  | .cpx => opCpx
  | .cpy => opCpy
  | .eor => opEor
  | .lda => opLda
  | .ldx => opLdx
  | .ldy => opLdy
  | .ora => opOra
  | .sbc => opSbc

/-! ## Read-modify-write operations (rules R261 to R266): the new value and the flags -/

/-- Rmw_ASL (rule R261). -/
def rmwAsl (m : Byte) (p : Flags) : Byte × Flags :=
  let r := m <<< 1
  (r, { p with c := m.getLsbD 7 }.setNZ r)

/-- Rmw_LSR (rule R262). -/
def rmwLsr (m : Byte) (p : Flags) : Byte × Flags :=
  let r := m >>> 1
  (r, { p with c := m.getLsbD 0 }.setNZ r)

/-- Rmw_ROL (rule R263): the old carry enters bit 0. -/
def rmwRol (m : Byte) (p : Flags) : Byte × Flags :=
  let r := (m <<< 1) ||| (BitVec.ofBool p.c).setWidth 8
  (r, { p with c := m.getLsbD 7 }.setNZ r)

/-- Rmw_ROR (rule R264): the old carry enters bit 7. -/
def rmwRor (m : Byte) (p : Flags) : Byte × Flags :=
  let r := (m >>> 1) ||| ((BitVec.ofBool p.c).setWidth 8 <<< 7)
  (r, { p with c := m.getLsbD 0 }.setNZ r)

/-- Rmw_INC (rule R265). -/
def rmwInc (m : Byte) (p : Flags) : Byte × Flags := (m + 1, p.setNZ (m + 1))

/-- Rmw_DEC (rule R266). -/
def rmwDec (m : Byte) (p : Flags) : Byte × Flags := (m - 1, p.setNZ (m - 1))

/-- Rmw_mn (rule R260). -/
def RmwOp.run : RmwOp → Byte → Flags → Byte × Flags
  | .asl => rmwAsl
  | .lsr => rmwLsr
  | .rol => rmwRol
  | .ror => rmwRor
  | .inc => rmwInc
  | .dec => rmwDec

/-- The accumulator form (rule R267): A and the flags. -/
def RmwOp.onA (op : RmwOp) (r : Regs) : Regs :=
  { r with a := (op.run r.a r.p).1, p := (op.run r.a r.p).2 }

/-! ## Single-byte operations (rules R271 to R288) -/

/-- Op of the single-byte shape (rule R270). -/
def SingleOp.run : SingleOp → Regs → Regs
  | .clc, r => { r with p := { r.p with c := false } }
  | .cld, r => { r with p := { r.p with d := false } }
  | .cli, r => { r with p := { r.p with i := false } }
  | .clv, r => { r with p := { r.p with v := false } }
  | .dex, r => { r with x := r.x - 1, p := r.p.setNZ (r.x - 1) }
  | .dey, r => { r with y := r.y - 1, p := r.p.setNZ (r.y - 1) }
  | .inx, r => { r with x := r.x + 1, p := r.p.setNZ (r.x + 1) }
  | .iny, r => { r with y := r.y + 1, p := r.p.setNZ (r.y + 1) }
  | .nop, r => r
  | .sec, r => { r with p := { r.p with c := true } }
  | .sed, r => { r with p := { r.p with d := true } }
  | .sei, r => { r with p := { r.p with i := true } }
  | .tax, r => { r with x := r.a, p := r.p.setNZ r.a }
  | .tay, r => { r with y := r.a, p := r.p.setNZ r.a }
  | .tsx, r => { r with x := r.s, p := r.p.setNZ r.s }
  | .txa, r => { r with a := r.x, p := r.p.setNZ r.x }
  | .txs, r => { r with s := r.x }
  | .tya, r => { r with a := r.y, p := r.p.setNZ r.y }

/-! ## Branch conditions (rules R301 to R308) -/

/-- Cond of the branch shape (rule R300). -/
def Cond.holds : Cond → Flags → Bool
  | .cc, p => !p.c
  | .cs, p => p.c
  | .eq, p => p.z
  | .mi, p => p.n
  | .ne, p => !p.z
  | .pl, p => !p.n
  | .vc, p => !p.v
  | .vs, p => p.v

/-! ## Stores (rules R251 to R253) -/

/-- The register a store drives onto the bus. -/
def StoreReg.value : StoreReg → Regs → Byte
  | .a, r => r.a
  | .x, r => r.x
  | .y, r => r.y

end Sys2Proof.Machine
end

