-- ==== Sys2Proof/Machine/Cells.lean ====
section
/-! DEFINITION. Sparse memories: lists of (address, value) pairs with the addresses strictly rising and no pair that
holds the value an unlisted address reads as, so that equal memories are equal lists. -/

namespace Sys2Proof.Machine

/-- The value at address `k`; `d` where nothing is listed. -/
def Cells.read {α : Type} (d : α) : List (Nat × α) → Nat → α
  | [], _ => d
  | (j, x) :: l, k => if j = k then x else Cells.read d l k

/-- Put `x` at address `k`, in order; the value `d` is stored by listing nothing. -/
def Cells.write {α : Type} [DecidableEq α] (d : α) : List (Nat × α) → Nat → α → List (Nat × α)
  | [], k, x => if x = d then [] else [(k, x)]
  | (j, y) :: l, k, x =>
    if k < j then (if x = d then (j, y) :: l else (k, x) :: (j, y) :: l)
    else if k = j then (if x = d then l else (k, x) :: l)
    else (j, y) :: Cells.write d l k x

/-- Every address listed is at least `lo`, the addresses rise, and no value listed is `d`. -/
def Cells.wfFrom {α : Type} [DecidableEq α] (d : α) : Nat → List (Nat × α) → Bool
  | _, [] => true
  | lo, (j, y) :: l => decide (lo ≤ j) && decide (y ≠ d) && Cells.wfFrom d (j + 1) l

/-- Every address listed lies below `n`. -/
def Cells.below {α : Type} (n : Nat) (l : List (Nat × α)) : Bool := l.all fun c => decide (c.1 < n)

/-- The byte at an address; an unlisted one reads as 0 (rule R571; log 4). -/
def Memory.read (m : Memory) (k : Nat) : Byte := Cells.read 0 m k

/-- Store a byte, keeping the canonical form. -/
def Memory.write (m : Memory) (k : Nat) (v : Byte) : Memory := Cells.write 0 m k v

/-- The canonical form: addresses strictly rising, no byte that an unlisted address reads as. -/
def Memory.wf (m : Memory) : Bool := Cells.wfFrom 0 0 m

/-- The canonical form of a memory of `n` bytes. -/
def Memory.wfSize (n : Nat) (m : Memory) : Bool := m.wf && Cells.below n m

/-- A memory of the given bytes, the first at address `k`. -/
def Memory.writeBytes (m : Memory) (k : Nat) : List Byte → Memory
  | [] => m
  | v :: vs => (m.write k v).writeBytes (k + 1) vs

end Sys2Proof.Machine
end

