-- ==== Sys2Proof/Machine/Apu.lean ====
section
/-! DEFINITION. The audio processor: register writes, the status register, and one step in the order of rule R423
(spec 51_apu.md; rules R41 to R46). Sample values rest on free constants (log 10). -/

namespace Sys2Proof.Machine

/-! ## Bit-timers (rule R46) -/

/-- clock(): this step will reload. -/
def BitTimer.clock {n : Nat} (b : BitTimer n) : Bool := decide (b.counter = 0)

/-- reload(). -/
def BitTimer.restart {n : Nat} (b : BitTimer n) : BitTimer n := { b with counter := b.reload }

/-- step(). -/
def BitTimer.step {n : Nat} (b : BitTimer n) : BitTimer n :=
  if b.counter = 0 then { b with counter := b.reload } else { b with counter := b.counter - 1 }

/-! ## Register writes (rules R421, R422, R425 to R432, R461) -/

/-- LENGTH_TABLE[i] as a counter value (rule R436). -/
def lengthEntry (i : BitVec 5) : BitVec 8 := BitVec.ofNat 8 (Config.lengthTable.getD i.toNat 0)

/-- timer.reload[7:0] ← d (rules R428, R431). -/
def BitTimer.setLow (b : BitTimer 11) (d : Byte) : BitTimer 11 := { b with reload := b.reload.extractLsb' 8 3 ++ d }

/-- timer.reload[10:8] ← d[2:0] (rules R429, R432). -/
def BitTimer.setHigh (b : BitTimer 11) (d : Byte) : BitTimer 11 :=
  { b with reload := d.extractLsb' 0 3 ++ b.reload.extractLsb' 0 8 }

/-- 0x4000 / 0x4004 (rule R426). -/
def Pulse.writeControl (p : Pulse) (d : Byte) : Pulse :=
  { p with
    duty := d.extractLsb' 6 2
    length := { p.length with halt := d.getLsbD 5 }
    env := { p.env with loop := d.getLsbD 5, constantVolume := d.getLsbD 4, param := d.extractLsb' 0 4,
                        divider := { p.env.divider with reload := d.extractLsb' 0 4 } } }

/-- 0x4001 / 0x4005 (rule R427). -/
def Pulse.writeSweep (p : Pulse) (d : Byte) : Pulse :=
  { p with
    sweep := { enabled := d.getLsbD 7, period := d.extractLsb' 4 3, negate := d.getLsbD 3, shift := d.extractLsb' 0 3,
               reloadPending := true, divider := { p.sweep.divider with reload := d.extractLsb' 4 3 } } }

/-- 0x4002 / 0x4006 (rule R428). -/
def Pulse.writeTimerLow (p : Pulse) (d : Byte) : Pulse := { p with timer := p.timer.setLow d }

/-- The length counter loads from the table when the channel is enabled (rules R429, R432, D42). -/
def LengthCounter.load (l : LengthCounter) (enabled : Bool) (d : Byte) : LengthCounter :=
  if enabled then { l with counter := lengthEntry (d.extractLsb' 3 5) } else l

/-- 0x4003 / 0x4007 (rule R429). -/
def Pulse.writeNoteOn (p : Pulse) (d : Byte) : Pulse :=
  { p with timer := p.timer.setHigh d, length := p.length.load p.enabled d, seqPos := 0, env := { p.env with start := true } }

/-- 0x4008 (rule R430). -/
def Triangle.writeLinear (t : Triangle) (d : Byte) : Triangle :=
  { t with
    linear := { t.linear with control := d.getLsbD 7, reloadValue := d.extractLsb' 0 7 }
    length := { t.length with halt := d.getLsbD 7 } }

/-- 0x400A (rule R431). -/
def Triangle.writeTimerLow (t : Triangle) (d : Byte) : Triangle := { t with timer := t.timer.setLow d }

/-- 0x400B (rule R432). -/
def Triangle.writeNoteOn (t : Triangle) (d : Byte) : Triangle :=
  { t with timer := t.timer.setHigh d, length := t.length.load t.enabled d, linear := { t.linear with reloadLatch := true } }

/-- A channel's enable bit; clearing it zeroes the length counter (rule R461). -/
def LengthCounter.gate (l : LengthCounter) (on : Bool) : LengthCounter := if on then l else { l with counter := 0 }

/-- 0x4015 write (rule R461). -/
def Apu.writeEnables (a : Apu) (d : Byte) : Apu :=
  { a with
    pulse1 := { a.pulse1 with enabled := d.getLsbD 0, length := a.pulse1.length.gate (d.getLsbD 0) }
    pulse2 := { a.pulse2 with enabled := d.getLsbD 1, length := a.pulse2.length.gate (d.getLsbD 1) }
    triangle := { a.triangle with enabled := d.getLsbD 2, length := a.triangle.length.gate (d.getLsbD 2) } }

/-- 0x4017 write (rule R425). -/
def Apu.writeFrameCounter (a : Apu) (d : Byte) : Apu :=
  { a with mode := if d.getLsbD 7 then .fiveStep else .fourStep, irqInhibit := d.getLsbD 6 }

/-- A register-file write, index a − 0x4000 (rules R421, R91); the unused, noise and DMC registers take nothing (R422). -/
def Apu.write (a : Apu) (index : Nat) (d : Byte) : Apu :=
  match index with
  | 0x00 => { a with pulse1 := a.pulse1.writeControl d }
  | 0x01 => { a with pulse1 := a.pulse1.writeSweep d }
  | 0x02 => { a with pulse1 := a.pulse1.writeTimerLow d }
  | 0x03 => { a with pulse1 := a.pulse1.writeNoteOn d }
  | 0x04 => { a with pulse2 := a.pulse2.writeControl d }
  | 0x05 => { a with pulse2 := a.pulse2.writeSweep d }
  | 0x06 => { a with pulse2 := a.pulse2.writeTimerLow d }
  | 0x07 => { a with pulse2 := a.pulse2.writeNoteOn d }
  | 0x08 => { a with triangle := a.triangle.writeLinear d }
  | 0x0A => { a with triangle := a.triangle.writeTimerLow d }
  | 0x0B => { a with triangle := a.triangle.writeNoteOn d }
  | 0x15 => a.writeEnables d
  | 0x17 => a.writeFrameCounter d
  | _ => a

/-! ## Status (rules R462, R463) -/

/-- The status byte (rule R462): frame IRQ in bit 6, length counters in bits 2:0. -/
def Apu.status (a : Apu) : Byte :=
  0#1 ++ BitVec.ofBool a.frameIrq ++ 0#3 ++ BitVec.ofBool (a.triangle.length.counter ≠ 0) ++
    BitVec.ofBool (a.pulse2.length.counter ≠ 0) ++ BitVec.ofBool (a.pulse1.length.counter ≠ 0)

/-- irq_out (rule R463). -/
def Apu.irqOut (a : Apu) : Bool := a.frameIrq

/-! ## Frame counter (rule R424) -/

/-- The wrap value of the mode. -/
def FrameMode.wrap : FrameMode → Nat
  | .fourStep => 29830
  | .fiveStep => 37282

/-- The count after this step. -/
def Apu.nextCount (a : Apu) : Nat := if a.mode.wrap ≤ a.count + 1 then 0 else a.count + 1

/-- A quarter-frame pulse at the new count. -/
def Apu.quarter (a : Apu) : Bool :=
  decide (a.count = 7457) || decide (a.count = 14913) || decide (a.count = 22371) || decide (a.count = a.mode.wrap - 1)

/-- A half-frame pulse at the new count. -/
def Apu.half (a : Apu) : Bool := decide (a.count = 14913) || decide (a.count = a.mode.wrap - 1)

/-- FrameCounterStep (rule R424): the new count, and the IRQ latch at 29,828. -/
def Apu.frameCounterStep (a : Apu) : Apu :=
  { a with
    count := a.nextCount
    frameIrq := a.frameIrq || (decide (a.mode = .fourStep) && !a.irqInhibit && decide (a.nextCount = 29828)) }

/-! ## Channel sub-units (rules R433 to R441) -/

/-- PulseTimerStep (rule R433). -/
def Pulse.timerStep (p : Pulse) : Pulse :=
  { p with seqPos := if p.timer.clock then p.seqPos + 1 else p.seqPos, timer := p.timer.step }

/-- TriangleTimerStep (rule R440). -/
def Triangle.timerStep (t : Triangle) : Triangle :=
  { t with
    seqPos := if t.timer.clock && decide (t.length.counter ≠ 0) && decide (t.linear.counter ≠ 0) then t.seqPos + 1 else t.seqPos
    timer := t.timer.step }

/-- LengthStep (rule R437). -/
def LengthCounter.step (l : LengthCounter) : LengthCounter :=
  if !l.halt && decide (l.counter ≠ 0) then { l with counter := l.counter - 1 } else l

/-- EnvStep (rule R438). -/
def Envelope.step (e : Envelope) : Envelope :=
  if e.start then { e with start := false, decayLevel := 15, divider := e.divider.restart }
  else if e.divider.clock then
    { e with
      divider := e.divider.step
      decayLevel := if e.decayLevel ≠ 0 then e.decayLevel - 1 else if e.loop then 15 else e.decayLevel }
  else { e with divider := e.divider.step }

/-- EnvVolume (rule R438). -/
def Envelope.volume (e : Envelope) : BitVec 4 := if e.constantVolume then e.param else e.decayLevel

/-- SweepTarget (rule R439). -/
def Pulse.sweepTarget (p : Pulse) : Nat :=
  let per := p.timer.reload.toNat
  if p.sweep.negate then per - (per >>> p.sweep.shift.toNat) else per + (per >>> p.sweep.shift.toNat)

/-- Muted (rule R439). -/
def Pulse.muted (p : Pulse) : Bool := decide (0x7FF < p.sweepTarget) || decide (p.timer.reload.toNat < 8)

/-- SweepStep (rule R439). -/
def Pulse.sweepStep (p : Pulse) : Pulse :=
  let tick := p.sweep.divider.clock
  { p with
    timer := if tick && p.sweep.enabled && !p.muted then { p.timer with reload := BitVec.ofNat 11 p.sweepTarget } else p.timer
    sweep :=
      if tick || p.sweep.reloadPending then { p.sweep with divider := p.sweep.divider.restart, reloadPending := false }
      else { p.sweep with divider := p.sweep.divider.step } }

/-- LinearStep (rule R441). -/
def LinearCounter.step (l : LinearCounter) : LinearCounter :=
  { l with
    counter := if l.reloadLatch then l.reloadValue else if l.counter ≠ 0 then l.counter - 1 else l.counter
    reloadLatch := if l.control then l.reloadLatch else false }

/-- The duty sequencer's bit, DUTY[duty][seq_pos] (rule R434). -/
def Pulse.dutyBit (p : Pulse) (audio : AudioParams) : Bool :=
  (audio.duty[p.duty.toNat]'p.duty.isLt)[p.seqPos.toNat]'p.seqPos.isLt

/-- PulseOut (rule R435). -/
def Pulse.output (p : Pulse) (audio : AudioParams) : Nat :=
  if p.muted || !p.dutyBit audio || decide (p.timer.reload.toNat < 8) || decide (p.length.counter = 0) then 0
  else p.env.volume.toNat

/-- TriOut (rule R440). -/
def Triangle.output (t : Triangle) : Nat := if t.seqPos.toNat < 16 then 15 - t.seqPos.toNat else t.seqPos.toNat - 16

/-! ## Mixer and samples (rules R450, R470) -/

/-- pulse_out (rule R450). -/
def pulseMix (p1 p2 : Nat) : Rat := if p1 + p2 = 0 then 0 else 9588 / 100 / (8128 / ((p1 : Rat) + p2) + 100)

/-- tnd_out with noise = dmc = 0 (rule R450). -/
def triangleMix (tri : Nat) : Rat := if tri = 0 then 0 else 15979 / 100 / (1 / ((tri : Rat) / 8227) + 100)

/-- mix (rule R450). -/
def mixLevel (p1 p2 tri : Nat) : Rat := pulseMix p1 p2 + triangleMix tri

/-- The mixer output of this step. -/
def Apu.mix (a : Apu) : Rat := mixLevel (a.pulse1.output a.params) (a.pulse2.output a.params) a.triangle.output

/-- The FIR sum: the taps walk the history ring backwards from the last-written index (rule R470). -/
def firOutput (history : List Rat) (last : Nat) : Rat :=
  (List.range Config.firTaps).foldl
    (fun acc k => acc + Config.fir k * history.getD ((last + (Config.firTaps - k)) % Config.firTaps) 0) 0

/-- A filter input: high-pass, into the history ring, FIR, and every second one into the output ring (rule R470). -/
def SamplePath.filterInput (sp : SamplePath) (x : Rat) : SamplePath :=
  let h := Config.highPass sp.hpfIn sp.hpfOut x
  let last := (sp.lastIndex + 1) % Config.firTaps
  let history := sp.history.set last h
  let sp := { sp with cycles := 0, hpfIn := x, hpfOut := h, history := history, lastIndex := last, decimate := !sp.decimate }
  if sp.decimate then sp
  else
    { sp with
      ring := Cells.write 0 sp.ring sp.writePos (Config.toSample (firOutput history last))
      writePos := (sp.writePos + 1) % Config.ringLen }

/-- SampleStep (rule R470), with `n` for N: one filter input every N steps. -/
def SamplePath.step (sp : SamplePath) (n : Nat) (x : Rat) : SamplePath :=
  if n ≤ sp.cycles + 1 then sp.filterInput x else { sp with cycles := sp.cycles + 1 }

/-! ## The step (rule R423) -/

/-- The timers: the triangle every step, the pulses when the new phase is 0. -/
def Apu.timerSteps (a : Apu) : Apu :=
  let a := { a with triangle := a.triangle.timerStep, phase := !a.phase }
  if a.phase then a else { a with pulse1 := a.pulse1.timerStep, pulse2 := a.pulse2.timerStep }

/-- The quarter-frame units: envelopes and the linear counter. -/
def Apu.quarterSteps (a : Apu) : Apu :=
  { a with
    pulse1 := { a.pulse1 with env := a.pulse1.env.step }
    pulse2 := { a.pulse2 with env := a.pulse2.env.step }
    triangle := { a.triangle with linear := a.triangle.linear.step } }

/-- The half-frame units: length counters and sweeps. -/
def Apu.halfSteps (a : Apu) : Apu :=
  { a with
    pulse1 := { a.pulse1 with length := a.pulse1.length.step }.sweepStep
    pulse2 := { a.pulse2 with length := a.pulse2.length.step }.sweepStep
    triangle := { a.triangle with length := a.triangle.length.step } }

/-- ApuStep (rule R423). -/
def Apu.step (a : Apu) : Apu :=
  let a := a.frameCounterStep.timerSteps
  let a := if a.quarter then a.quarterSteps else a
  let a := if a.half then a.halfSteps else a
  { a with sample := a.sample.step (Config.samplePeriod a.params.outputRate) a.mix }

end Sys2Proof.Machine
end

