-- ==== Sys2Proof/Machine/Ppu.lean ====
section
/-! DEFINITION. The picture processor: register accesses, the sub-steps of one dot in the order of rule R360, and the
dot counter (spec 50_ppu.md; rules R34 to R40, R45). A step that fetches an 8×16 sprite faults (rule R368). -/

namespace Sys2Proof.Machine

/-! ## Plane pairs (rule R45) -/

/-- reload(a, b): the low byte of each plane is overwritten, the bits above it kept (none for width 8). -/
def PlanePair.reloadLow {n : Nat} (p : PlanePair n) (a b : Byte) : PlanePair n where
  u := ((p.u >>> 8) <<< 8) ||| a.setWidth n
  l := ((p.l >>> 8) <<< 8) ||| b.setWidth n

/-- shift(in): both planes one left, the two input bits into bit 0 of `u` (high) and `l` (low). -/
def PlanePair.shiftIn {n : Nat} (p : PlanePair n) (x : BitVec 2) : PlanePair n where
  u := (p.u <<< 1) ||| (BitVec.ofBool (x.getLsbD 1)).setWidth n
  l := (p.l <<< 1) ||| (BitVec.ofBool (x.getLsbD 0)).setWidth n

/-- at(i): the two bits `i` places below the top. -/
def PlanePair.pixel {n : Nat} (p : PlanePair n) (i : Nat) : BitVec 2 :=
  BitVec.ofBool (p.u.getLsbD (n - 1 - i)) ++ BitVec.ofBool (p.l.getLsbD (n - 1 - i))

/-- bitreverse8 (rule R368). -/
def reverseByte (b : Byte) : Byte :=
  BitVec.ofBool (b.getLsbD 0) ++ BitVec.ofBool (b.getLsbD 1) ++ BitVec.ofBool (b.getLsbD 2) ++ BitVec.ofBool (b.getLsbD 3) ++
    BitVec.ofBool (b.getLsbD 4) ++ BitVec.ofBool (b.getLsbD 5) ++ BitVec.ofBool (b.getLsbD 6) ++ BitVec.ofBool (b.getLsbD 7)

/-! ## The fields of v and t (rule R35) -/

/-- coarse_x: bits 4:0. -/
def coarseX (v : BitVec 15) : BitVec 5 := v.extractLsb' 0 5

/-- coarse_y: bits 9:5. -/
def coarseY (v : BitVec 15) : BitVec 5 := v.extractLsb' 5 5

/-- nametable: bits 11:10. -/
def nametable (v : BitVec 15) : BitVec 2 := v.extractLsb' 10 2

/-- fine_y: bits 14:12. -/
def fineY (v : BitVec 15) : BitVec 3 := v.extractLsb' 12 3

/-- The 15-bit address of its four fields. -/
def joinScroll (fy : BitVec 3) (nt : BitVec 2) (cy cx : BitVec 5) : BitVec 15 := fy ++ nt ++ cy ++ cx

/-- v with coarse_x replaced. -/
def setCoarseX (v : BitVec 15) (x : BitVec 5) : BitVec 15 := joinScroll (fineY v) (nametable v) (coarseY v) x

/-- v with coarse_y replaced. -/
def setCoarseY (v : BitVec 15) (y : BitVec 5) : BitVec 15 := joinScroll (fineY v) (nametable v) y (coarseX v)

/-- v with the nametable bits replaced. -/
def setNametable (v : BitVec 15) (n : BitVec 2) : BitVec 15 := joinScroll (fineY v) n (coarseY v) (coarseX v)

/-- v with fine_y replaced. -/
def setFineY (v : BitVec 15) (y : BitVec 3) : BitVec 15 := joinScroll y (nametable v) (coarseY v) (coarseX v)

/-! ## Raster windows (rule R361) -/

/-- RenderingEnabled (rule R361). -/
def Ppu.renderingEnabled (p : Ppu) : Bool := p.mask.showBackground || p.mask.showSprites

/-- VisibleLine (rule R361). -/
def Ppu.visibleLine (p : Ppu) : Bool := decide (p.scanline ≤ 239)

/-- PreRender (rule R361). -/
def Ppu.preRender (p : Ppu) : Bool := decide (p.scanline = 261)

/-- RenderLine (rule R361). -/
def Ppu.renderLine (p : Ppu) : Bool := p.visibleLine || p.preRender

/-- The dot lies in a range. -/
def Ppu.dotIn (p : Ppu) (a b : Nat) : Bool := decide (a ≤ p.dot) && decide (p.dot ≤ b)

/-! ## Register accesses (rules R346 to R356) -/

/-- PPUCTRL write (rules R342, R347). -/
def Ppu.writeCtrl (p : Ppu) (d : Byte) : Ppu :=
  { p with
    ctrl := { nametableSelect := d.extractLsb' 0 2, vramIncrement := d.getLsbD 2, sprPtBase := d.getLsbD 3,
              bgPtBase := d.getLsbD 4, spriteHeight16 := d.getLsbD 5, generateVblankNmi := d.getLsbD 7 }
    t := setNametable p.t (d.extractLsb' 0 2) }

/-- PPUMASK write (rules R343, R348). -/
def Ppu.writeMask (p : Ppu) (d : Byte) : Ppu :=
  { p with
    mask := { greyscale := d.getLsbD 0, showBgLeft := d.getLsbD 1, showSprLeft := d.getLsbD 2,
              showBackground := d.getLsbD 3, showSprites := d.getLsbD 4, emphasis := d.extractLsb' 5 3 } }

/-- The PPUSTATUS byte (rule R344; bits 4:0 read 0). -/
def Ppu.statusByte (p : Ppu) : Byte :=
  BitVec.ofBool p.vblankStarted ++ BitVec.ofBool p.sprite0Hit ++ BitVec.ofBool p.spriteOverflow ++ 0#5

/-- PPUSTATUS read (rule R349). -/
def Ppu.readStatus (p : Ppu) : Ppu := { p with cpuData := p.statusByte, vblankStarted := false, w := false }

/-- OAMDATA write (rule R351). -/
def Ppu.writeOamData (p : Ppu) (d : Byte) : Ppu :=
  { p with oam := p.oam.write p.oamAddr.toNat d, oamAddr := p.oamAddr + 1 }

/-- OAMDATA read, no increment (rule R351). -/
def Ppu.readOamData (p : Ppu) : Ppu := { p with cpuData := p.oam.read p.oamAddr.toNat }

/-- PPUSCROLL write (rule R352). -/
def Ppu.writeScroll (p : Ppu) (d : Byte) : Ppu :=
  if p.w then
    { p with t := setCoarseY (setFineY p.t (d.extractLsb' 0 3)) (d.extractLsb' 3 5), w := false }
  else { p with fineX := d.extractLsb' 0 3, t := setCoarseX p.t (d.extractLsb' 3 5), w := true }

/-- PPUADDR write (rule R353). -/
def Ppu.writeAddr (p : Ppu) (d : Byte) : Ppu :=
  if p.w then
    let t : BitVec 15 := p.t.extractLsb' 8 7 ++ d
    { p with t := t, v := t, w := false }
  else { p with t := (0#1 ++ d.extractLsb' 0 6 ++ p.t.extractLsb' 0 8 : BitVec 15), w := true }

/-- v after a PPUDATA access: 1 or 32 more, modulo 0x8000 (rules R354, R355, D64). -/
def Ppu.advanceV (p : Ppu) : BitVec 15 := p.v + (if p.ctrl.vramIncrement then 32 else 1)

/-- The address PPUDATA reaches: v[13:0] (rule R354). -/
def Ppu.dataAddr (p : Ppu) : BitVec 14 := p.v.setWidth 14

/-- A palette index of a PPU address (rules R354, R355: the low five bits). -/
def paletteIndex (a : BitVec 14) : Nat := (a &&& 0x1F).toNat

/-- A PPUDATA access while rendering on a render line: its data is unspecified (rule R584, U8; log 8). -/
def Ppu.contended (p : Ppu) : Bool := p.renderingEnabled && p.renderLine

/-- The data of a PPUDATA access: the byte the rules give, or a free one where they leave it open (rule R584; log 8). -/
def Ppu.dataOr (p : Ppu) (d : Byte) : Byte := if p.contended then Config.contendedByte p.contention else d

/-- PPUDATA write: palette RAM directly, else the VRAM bus (rule R354). -/
def Ppu.writeData (p : Ppu) (d : Byte) : Ppu :=
  let a := p.dataAddr
  let d := p.dataOr d
  if 0x3F00 ≤ a.toNat then
    { p with palette := p.palette.write (paletteIndex a) d, v := p.advanceV, contention := p.contention + 1 }
  else { p with vramAddr := a, vramData := d, vramWr := true, v := p.advanceV, contention := p.contention + 1 }

/-- PPUDATA read: the buffered byte, or the palette byte; the buffer is refilled at the next step (rule R355), with a
free byte at once where the data is unspecified (rule R584; log 8). -/
def Ppu.readData (p : Ppu) : Ppu :=
  let a := p.dataAddr
  { p with
    cpuData := p.dataOr (if a.toNat < 0x3F00 then p.dataBuffer else p.palette.read (paletteIndex a))
    dataBuffer := if p.contended then Config.contendedByte (p.contention + 1) else p.dataBuffer
    vramAddr := a
    vramRd := true
    fillPending := !p.contended
    v := p.advanceV
    contention := p.contention + 2 }

/-- The effect of one register access (rule R346's table; rule R356 otherwise). -/
def Ppu.registerAccess (p : Ppu) : Ppu :=
  match p.cpuRw, p.cpuReg.toNat with
  | .write, 0 => p.writeCtrl p.cpuData
  | .write, 1 => p.writeMask p.cpuData
  | .write, 3 => { p with oamAddr := p.cpuData }
  | .write, 4 => p.writeOamData p.cpuData
  | .write, 5 => p.writeScroll p.cpuData
  | .write, 6 => p.writeAddr p.cpuData
  | .write, 7 => p.writeData p.cpuData
  | .read, 2 => p.readStatus
  | .read, 4 => p.readOamData
  | .read, 7 => p.readData
  | _, _ => p

/-- The strobes of the previous step end, and a pending PPUDATA fill completes (rule R346). -/
def Ppu.endStrobes (p : Ppu) : Ppu :=
  { p with vramRd := false, vramWr := false,
           dataBuffer := if p.fillPending then p.vramData else p.dataBuffer, fillPending := false }

/-- CpuAccess (rule R346). -/
def Ppu.cpuAccess (p : Ppu) : Ppu :=
  let p := p.endStrobes
  if p.access then { p with access := false }.registerAccess else p

/-! ## Background pipeline (rules R362, R366, R367, R385) -/

/-- Reload (rule R362): dots 9, 17, …, 257 and 329, 337. -/
def Ppu.reload (p : Ppu) : Ppu :=
  if p.renderLine && decide (p.dot % 8 = 1) && (p.dotIn 9 257 || p.dotIn 329 337) then
    { p with bgPat := p.bgPat.reloadLow p.ptHi p.ptLo, palLatch := p.atByte.extractLsb' 0 2 }
  else p

/-- AttrShift(v) (rule R367): 0, 2, 4 or 6. -/
def attrShift (v : BitVec 15) : Nat :=
  ((coarseY v).toNat / 2 % 2) * 4 + ((coarseX v).toNat / 2 % 2) * 2

/-- Assert a VRAM read. -/
def Ppu.requestRead (p : Ppu) (a : BitVec 14) : Ppu := { p with vramAddr := a, vramRd := true }

/-- The nametable address (rule R366): 0x2000 | v[11:0]. -/
def nametableAddr (v : BitVec 15) : BitVec 14 := 0b10#2 ++ nametable v ++ coarseY v ++ coarseX v

/-- The attribute address (rule R366). -/
def attributeAddr (v : BitVec 15) : BitVec 14 :=
  0b10#2 ++ nametable v ++ 0b1111#4 ++ (coarseY v).extractLsb' 2 3 ++ (coarseX v).extractLsb' 2 3

/-- The low-plane pattern address of a tile row (rules R366, R368): base, tile, plane bit 0, row. -/
def patternAddr (base : Bool) (tile : Byte) (row : BitVec 3) : BitVec 14 :=
  0#1 ++ BitVec.ofBool base ++ tile ++ 0#1 ++ row

/-- FetchBackground (rule R366). -/
def Ppu.fetchBackground (p : Ppu) : Ppu :=
  if p.renderLine && (p.dotIn 1 256 || p.dotIn 321 336) then
    match p.dot % 8 with
    | 1 => p.requestRead (nametableAddr p.v)
    | 2 => { p with ntByte := p.vramData }
    | 3 => p.requestRead (attributeAddr p.v)
    | 4 => { p with atByte := p.vramData >>> attrShift p.v }
    | 5 => p.requestRead (patternAddr p.ctrl.bgPtBase p.ntByte (fineY p.v))
    | 6 => { p with ptLo := p.vramData }
    | 7 => p.requestRead (p.vramAddr ||| 0x0008)
    | _ => { p with ptHi := p.vramData }
  else p

/-- Shift, background part (rule R385). -/
def Ppu.shiftBackground (p : Ppu) : Ppu :=
  if p.renderLine && p.dotIn 1 336 then
    { p with bgPat := p.bgPat.shiftIn 0, bgPal := p.bgPal.shiftIn p.palLatch }
  else p

/-! ## Sprites (rules R364, R368, R380, R381, R384, R386) -/

/-- SpritePixel's scan (rule R364): the pixel and attribute of the first slot that wins, in slot order. -/
def firstSprite (fx : Nat) : List Slot → Option (BitVec 2 × Byte)
  | [] => none
  | sl :: rest =>
    if decide (sl.xcnt = 0) && decide (sl.pat.pixel fx ≠ 0) then some (sl.pat.pixel fx, sl.attr) else firstSprite fx rest

/-- SpritePixel (rule R364). -/
def Ppu.spritePixel (p : Ppu) : Option (BitVec 2 × Byte) :=
  if p.mask.showSprites then firstSprite p.fineX.toNat p.slots else none

/-- The palette address of a pixel: sprite bit, palette, pixel (rule R365). -/
def paletteAddr (sprite : Bool) (pal px : BitVec 2) : Nat :=
  (BitVec.ofBool sprite ++ pal ++ px : BitVec 5).toNat

/-- The palette address of the pixel at this dot (rules R363, R365). -/
def Ppu.pixelAddr (p : Ppu) : Nat :=
  let bgp := if p.mask.showBackground then p.bgPat.pixel p.fineX.toNat else 0
  let bgpal := p.bgPal.pixel p.fineX.toNat
  match p.spritePixel with
  | some (sp, sattr) =>
    if decide (bgp = 0) || !sattr.getLsbD 5 then paletteAddr true (sattr.extractLsb' 0 2) sp
    else paletteAddr false bgpal bgp
  | none => paletteAddr false bgpal bgp

/-- EmitPixel (rule R363): the frame buffer at (scanline, dot − 1), row-major. -/
def Ppu.emitPixel (p : Ppu) : Ppu :=
  if p.visibleLine && p.dotIn 1 256 then
    { p with frameBuffer := p.frameBuffer.write (p.scanline * 256 + (p.dot - 1)) (p.palette.read p.pixelAddr) }
  else p

/-- The row of a sprite whose y byte is `y` on the next line, flipped when the attribute says so (rule R368). -/
def spriteRow (scanline : Nat) (y at_ : Byte) : BitVec 3 :=
  let row : BitVec 3 := BitVec.ofNat 3 (scanline + 1) - y.setWidth 3
  if at_.getLsbD 7 then 7 - row else row

/-- Load slot `n` (rule R368). -/
def Ppu.loadSlot (p : Ppu) (n : Nat) (hi lo at_ x : Byte) : Ppu :=
  { p with slots := p.slots.set n ⟨(PlanePair.mk 0 0).reloadLow hi lo, at_, x⟩ }

/-- FetchSprite (rule R368): slot n = (dot − 257) / 8, sub-dot k = (dot − 257) mod 8. -/
def Ppu.fetchSprite (p : Ppu) : Except Fault Ppu :=
  if p.renderLine && p.dotIn 257 320 then
    let n := (p.dot - 257) / 8
    let k := (p.dot - 257) % 8
    if n < p.secCount then
      let y := p.secOam.read (4 * n)
      let tile := p.secOam.read (4 * n + 1)
      let at_ := p.secOam.read (4 * n + 2)
      let x := p.secOam.read (4 * n + 3)
      match k with
      | 4 =>
        if p.ctrl.spriteHeight16 then .error .unmodelled8x16
        else .ok (p.requestRead (patternAddr p.ctrl.sprPtBase tile (spriteRow p.scanline y at_)))
      | 5 => .ok { p with sprLo := p.vramData }
      | 6 => .ok (p.requestRead (p.vramAddr ||| 0x0008))
      | 7 =>
        if at_.getLsbD 6 then .ok (p.loadSlot n (reverseByte p.vramData) (reverseByte p.sprLo) at_ x)
        else .ok (p.loadSlot n p.vramData p.sprLo at_ x)
      | _ => .ok p
    else if k = 7 then .ok (p.loadSlot n 0 0 0 0xFF)
    else .ok p
  else .ok p

/-- The four bytes of a secondary-OAM entry, 4·`n` on. -/
def Ppu.copySprite (p : Ppu) (k : Nat) : Ppu :=
  { p with
    secOam := p.secOam.writeBytes (4 * p.secCount)
      [p.oam.read (4 * k), p.oam.read (4 * k + 1), p.oam.read (4 * k + 2), p.oam.read (4 * k + 3)]
    secCount := p.secCount + 1 }

/-- The sprite with y byte `y` covers the line after `scanline` (rule R381: 0 ≤ r < h). -/
def spriteInRange (scanline h : Nat) (y : Byte) : Bool :=
  decide (y.toNat ≤ scanline + 1) && decide (scanline + 1 - y.toNat < h)

/-- The scan's body for sprite `k` (rules R381, R384). -/
def Ppu.scanSprite (p : Ppu) (k : Nat) : Ppu :=
  if spriteInRange p.scanline (if p.ctrl.spriteHeight16 then 16 else 8) (p.oam.read (4 * k)) then
    if p.secCount < 8 then p.copySprite k else { p with spriteOverflow := true }
  else p

/-- EvaluateSprites: the clear at dot 1 (rule R380), the scan at dot 65 (rule R381). -/
def Ppu.evaluateSprites (p : Ppu) : Ppu :=
  if p.renderLine && decide (p.dot = 1) then
    { p with secOam := Memory.writeBytes [] 0 (List.replicate 32 0xFF), secCount := 0 }
  else if p.visibleLine && decide (p.dot = 65) then (List.range 64).foldl Ppu.scanSprite p
  else p

/-- One slot's count or shift (rule R386). -/
def Slot.advance (sl : Slot) : Slot :=
  if sl.xcnt = 0 then { sl with pat := sl.pat.shiftIn 0 } else { sl with xcnt := sl.xcnt - 1 }

/-- Shift, sprite part (rule R386). -/
def Ppu.shiftSprites (p : Ppu) : Ppu :=
  if p.visibleLine && p.dotIn 1 256 then { p with slots := p.slots.map Slot.advance } else p

/-! ## Scroll (rules R369 to R372) -/

/-- coarse_x++ with the horizontal nametable toggle (rule R369). -/
def incrementX (v : BitVec 15) : BitVec 15 :=
  if coarseX v = 31 then setNametable (setCoarseX v 0) (nametable v ^^^ 0b01) else setCoarseX v (coarseX v + 1)

/-- fine_y++ into coarse_y, with the vertical nametable toggle at row 29 (rule R370). -/
def incrementY (v : BitVec 15) : BitVec 15 :=
  if (fineY v).toNat < 7 then setFineY v (fineY v + 1)
  else
    let v := setFineY v 0
    if coarseY v = 29 then setNametable (setCoarseY v 0) (nametable v ^^^ 0b10)
    else if coarseY v = 31 then setCoarseY v 0
    else setCoarseY v (coarseY v + 1)

/-- The horizontal bits of `t` (4:0 and 10) into `v` (rule R371). -/
def copyHorizontal (v t : BitVec 15) : BitVec 15 := (v &&& 0x7BE0) ||| (t &&& 0x041F)

/-- The vertical bits of `t` (9:5, 11 and 14:12) into `v` (rule R372). -/
def copyVertical (v t : BitVec 15) : BitVec 15 := (v &&& 0x041F) ||| (t &&& 0x7BE0)

/-- Part 1 of UpdateScroll: dots 8, 16, …, 256, 328, 336 (rule R369). -/
def Ppu.scrollX (p : Ppu) : Ppu :=
  if p.renderLine && decide (p.dot % 8 = 0) && decide (p.dot ≠ 0) && !p.dotIn 257 320 then
    { p with v := incrementX p.v }
  else p

/-- Part 2 of UpdateScroll: dot 256 (rule R370). -/
def Ppu.scrollY (p : Ppu) : Ppu :=
  if p.renderLine && decide (p.dot = 256) then { p with v := incrementY p.v } else p

/-- The horizontal copy at dot 257 (rule R371). -/
def Ppu.scrollCopyX (p : Ppu) : Ppu :=
  if p.renderLine && decide (p.dot = 257) then { p with v := copyHorizontal p.v p.t } else p

/-- The vertical copy on the pre-render line, dots 280 to 304 (rule R372). -/
def Ppu.scrollCopyY (p : Ppu) : Ppu :=
  if p.preRender && p.dotIn 280 304 then { p with v := copyVertical p.v p.t } else p

/-- UpdateScroll (rules R369 to R372). -/
def Ppu.updateScroll (p : Ppu) : Ppu := p.scrollX.scrollY.scrollCopyX.scrollCopyY

/-! ## V-blank and the counters (rules R390 to R392) -/

/-- VblankEdges (rule R390). -/
def Ppu.vblankEdges (p : Ppu) : Ppu :=
  if p.scanline = 241 ∧ p.dot = 1 then { p with vblankStarted := true, frameComplete := true }
  else if p.scanline = 261 ∧ p.dot = 1 then
    { p with vblankStarted := false, frameComplete := false, spriteOverflow := false }
  else p

/-- AdvanceCounters (rule R392): 341 dots a line, 262 lines a frame. -/
def Ppu.advanceCounters (p : Ppu) : Ppu :=
  if p.dot + 1 = 341 then
    if p.scanline + 1 = 262 then { p with dot := 0, scanline := 0, oddFrame := !p.oddFrame }
    else { p with dot := 0, scanline := p.scanline + 1 }
  else { p with dot := p.dot + 1 }

/-- nmi_out (rule R391). -/
def Ppu.nmiOut (p : Ppu) : Bool := p.ctrl.generateVblankNmi && p.vblankStarted

/-! ## The step (rule R360) -/

/-- The rendering sub-steps in order (rule R360). -/
def Ppu.render (p : Ppu) : Except Fault Ppu :=
  match p.reload.emitPixel.fetchBackground.fetchSprite with
  | .error f => .error f
  | .ok p => .ok p.updateScroll.evaluateSprites.shiftBackground.shiftSprites

/-- PpuStep: one dot (rule R360). -/
def Ppu.step (p : Ppu) : Except Fault Ppu :=
  let p := p.cpuAccess
  match (if p.renderingEnabled then p.render else .ok p) with
  | .error f => .error f
  | .ok p => .ok p.vblankEdges.advanceCounters

end Sys2Proof.Machine
end

