-- ==== Sys2Proof/Machine/Bus.lean ====
section
/-! DEFINITION. The two buses: the CPU address map (rule R84), reads and writes of the CPU bus (rules R85 to R103), the
start of an OAM DMA (R494), the controller port (R502, R503), and the PPU bus (R104, R105, R110 to R112). -/

namespace Sys2Proof.Machine

/-! ## The CPU address map (rule R84) -/

/-- What a CPU address selects. -/
inductive Target where
  /-- 0x0000..0x1FFF: RAM, mirrored every 0x0800 (rule R87). -/
  | ram (k : Nat)
  /-- 0x2000..0x3FFF: the PPU register `a mod 8` (rules R88, R89). -/
  | ppu (r : BitVec 3)
  /-- 0x4000..0x4013: an APU register, by its index (rules R91, R96). -/
  | apu (k : Nat)
  /-- 0x4014: the OAM-DMA trigger (rule R90). -/
  | oamDma
  /-- 0x4015: APU status (rules R91, R92). -/
  | apuStatus
  /-- 0x4016: controller port (rule R93). -/
  | pad1
  /-- 0x4017: controller 2 and APU frame counter (rule R94). -/
  | pad2
  /-- 0x4018..0x401F: reserved (rule R95). -/
  | reserved
  /-- 0x4020..0x5FFF: the cartridge window's hole (rule R102). -/
  | hole
  /-- 0x6000..0x7FFF: PRG-RAM, by its offset (rules R100, R101). -/
  | prgRam (k : Nat)
  /-- 0x8000..0xFFFF: PRG-ROM, by its offset (rules R100, R103). -/
  | prgRom (k : Nat)
deriving DecidableEq, Repr

/-- The route of a CPU address (rule R84). -/
def cpuTarget (a : Word) : Target :=
  let n := a.toNat
  if n < 0x2000 then .ram (n % 0x0800)
  else if n < 0x4000 then .ppu (a.extractLsb' 0 3)
  else if n < 0x4014 then .apu (n - 0x4000)
  else if n = 0x4014 then .oamDma
  else if n = 0x4015 then .apuStatus
  else if n = 0x4016 then .pad1
  else if n = 0x4017 then .pad2
  else if n < 0x4020 then .reserved
  else if n < 0x6000 then .hole
  else if n < 0x8000 then .prgRam (n - 0x6000)
  else .prgRom (n - 0x8000)

/-! ## Devices on the CPU bus -/

/-- The controller latch (rule R502): a falling edge takes the host's next answer, (0, 0) when none stands (D63). -/
def Controller.writeLatch (c : Controller) (d : Byte) : Controller :=
  if c.latch && !d.getLsbD 0 then
    match c.answers with
    | [] => { c with latch := false, sr1 := 0, sr2 := 0 }
    | (b1, b2) :: rest => { latch := false, sr1 := b1, sr2 := b2, answers := rest }
  else { c with latch := d.getLsbD 0 }

/-- The byte a serial port returns: its least significant bit (rule R503). -/
def serialByte (sr : Byte) : Byte := sr &&& 1

/-- DmaStart (rule R494): 513 cycles after an even one, 514 after an odd one. -/
def State.dmaStart (s : State) (v : Byte) : State :=
  let even := decide (s.cyc % 2 = 0)
  { s with dma := { s.dma with page := v, align := even, pending := if even then 513 else 514, active := true } }

/-! ## CPU bus writes (rules R85 to R95, R101 to R103) -/

/-- A write of `v` at `a`, 0x4014 included (rule R490, tick step 2). -/
def State.busWrite (s : State) (a : Word) (v : Byte) : Except Fault State :=
  match cpuTarget a with
  | .ram k => .ok { s with ram := s.ram.write k v }
  | .ppu r => .ok { s with ppu := { s.ppu with cpuReg := r, cpuData := v, cpuRw := .write, access := true } }
  | .apu k => .ok { s with apu := s.apu.write k v }
  | .oamDma => .ok (s.dmaStart v)
  | .apuStatus => .ok { s with apu := s.apu.write 0x15 v }
  | .pad1 => .ok { s with ctl := s.ctl.writeLatch v }
  | .pad2 => .ok { s with apu := s.apu.write 0x17 v }
  | .reserved => .error (.reservedIO a .write)
  | .hole => .error (.cartridgeUnmapped a.toNat)
  | .prgRam k =>
    if s.cart.prgRamLen = 0 then .error (.cartridgeUnmapped a.toNat)
    else .ok { s with prgRam := s.prgRam.write (k % s.cart.prgRamLen) v }
  | .prgRom _ => .error (.romWrite a)

/-! ## CPU bus reads (rules R86 to R100, R102) -/

/-- A read of `a` completed in tick step 5: the byte, and the state after its side effect (rule R97). A read that
selects no device gives a free byte (rule R96: unspecified; log 7). -/
def State.busRead (s : State) (a : Word) : Except Fault (Byte × State) :=
  match cpuTarget a with
  | .ram k => .ok (s.ram.read k, s)
  | .ppu _ => .ok (s.ppu.cpuData, s)
  | .apu _ => .ok (Config.openBus s.cyc, s)
  | .oamDma => .ok (Config.openBus s.cyc, s)
  | .apuStatus => .ok (s.apu.status, { s with apu := { s.apu with frameIrq := false } })
  | .pad1 => .ok (serialByte s.ctl.sr1, { s with ctl := { s.ctl with sr1 := s.ctl.sr1 >>> 1 } })
  | .pad2 => .ok (serialByte s.ctl.sr2, { s with ctl := { s.ctl with sr2 := s.ctl.sr2 >>> 1 } })
  | .reserved => .error (.reservedIO a .read)
  | .hole => .error (.cartridgeUnmapped a.toNat)
  | .prgRam k =>
    if s.cart.prgRamLen = 0 then .error (.cartridgeUnmapped a.toNat)
    else .ok (s.prgRam.read (k % s.cart.prgRamLen), s)
  | .prgRom k => .ok (s.cart.prgRom.read (k % s.cart.prgRomLen), s)

/-- The byte a memory address holds (RAM, PRG-RAM, PRG-ROM), with no access made; none elsewhere. -/
def State.peek (s : State) (a : Word) : Option Byte :=
  match cpuTarget a with
  | .ram k => some (s.ram.read k)
  | .prgRam k => if s.cart.prgRamLen = 0 then none else some (s.prgRam.read (k % s.cart.prgRamLen))
  | .prgRom k => some (s.cart.prgRom.read (k % s.cart.prgRomLen))
  | _ => none

/-- The program loader's store of a byte into the memory an address reads from, PRG-ROM included (log 3): no bus access. -/
def State.loadByte (s : State) (a : Word) (v : Byte) : State :=
  match cpuTarget a with
  | .ram k => { s with ram := s.ram.write k v }
  | .prgRam k => { s with prgRam := s.prgRam.write (k % s.cart.prgRamLen) v }
  | .prgRom k => { s with cart := { s.cart with prgRom := s.cart.prgRom.write (k % s.cart.prgRomLen) v } }
  | _ => s

/-! ## The PPU bus (rules R104, R105, R110 to R112) -/

/-- VramIndex(p): the mirroring formula taken literally (rule R111). -/
def vramIndex (m : Mirroring) (p : BitVec 14) : Nat :=
  match m with
  | .horizontal => (p &&& ~~~0x0400).toNat % 2048
  | .vertical => (p &&& ~~~0x0800).toNat % 2048

/-- PpuBusRead (rules R104, R110, R112). -/
def State.ppuBusRead (s : State) (p : BitVec 14) : Except Fault Byte :=
  if p.toNat < 0x2000 then
    if p.toNat < s.cart.chrRomLen then .ok (s.cart.chrRom.read p.toNat) else .error (.cartridgeUnmapped p.toNat)
  else .ok (s.vram.read (vramIndex s.cart.mirroring p))

/-- PpuBusWrite (rules R105, R110, R112). -/
def State.ppuBusWrite (s : State) (p : BitVec 14) (d : Byte) : Except Fault State :=
  if p.toNat < 0x2000 then .error (.chrWrite p)
  else .ok { s with vram := s.vram.write (vramIndex s.cart.mirroring p) d }

/-- Serve the read strobe (rule R490, tick step 3). -/
def State.servePpuRead (s : State) : Except Fault State :=
  if s.ppu.vramRd then
    match s.ppuBusRead s.ppu.vramAddr with
    | .error f => .error f
    | .ok d => .ok { s with ppu := { s.ppu with vramData := d } }
  else .ok s

/-- A PPUDATA write whose address a rendering fetch replaced in the same dot (both strobes are set): it is no fault (rule
R522), its data is unspecified, and it is lost where nothing can be written (rule R584, D46; log 8). -/
def State.lostPpuWrite (s : State) (p : BitVec 14) : State :=
  if p.toNat < 0x2000 then s
  else
    { s with
      vram := s.vram.write (vramIndex s.cart.mirroring p) (Config.contendedByte s.ppu.contention)
      ppu := { s.ppu with contention := s.ppu.contention + 1 } }

/-- Serve the write strobe (rule R490, tick step 3). -/
def State.servePpuWrite (s : State) : Except Fault State :=
  if s.ppu.vramWr then
    if s.ppu.vramRd then .ok (s.lostPpuWrite s.ppu.vramAddr)
    else s.ppuBusWrite s.ppu.vramAddr s.ppu.vramData
  else .ok s

end Sys2Proof.Machine
end

