-- ==== Sys2Proof/Machine/Harness.lean ====
section
/-! DEFINITION. The system harness: tick steps 2 to 6 of rule R490, shared by the CPU and the DMA engine, and the
OAM-DMA engine's cycles (rules R495 to R497). -/

namespace Sys2Proof.Machine

/-- Who drives the CPU bus in a tick (rules R120, R490). -/
inductive Master where
  | cpu
  | dma
deriving DecidableEq, Repr

/-- A run of the machine: the state after, or the fault that ended it (rule R520). -/
abbrev Run := Except Fault State

/-- Go on with a run that has not faulted. -/
def andThen (r : Run) (f : State → Run) : Run :=
  match r with
  | .ok s => f s
  | .error e => .error e

/-- Tick step 2: the master's write, or the PPU select of a read of its window (rules R85, R88, R89, R490). -/
def State.driveBus (s : State) : Run :=
  match s.cpu.rw with
  | .write => s.busWrite s.cpu.ab s.cpu.db
  | .read =>
    match cpuTarget s.cpu.ab with
    | .ppu r => .ok { s with ppu := { s.ppu with cpuReg := r, cpuRw := .read, access := true } }
    | _ => .ok s

/-- One PPU step with its VRAM access served (rule R490, tick step 3). -/
def State.ppuStep (s : State) : Run :=
  match s.ppu.step with
  | .error f => .error f
  | .ok p => andThen { s with ppu := p }.servePpuRead State.servePpuWrite

/-- Tick step 3: three PPU steps. -/
def State.ppuSteps (s : State) : Run := andThen (andThen s.ppuStep State.ppuStep) State.ppuStep

/-- Tick step 4: the NMI edge detector (rules R490, R524). -/
def State.latchNmi (s : State) : State :=
  { s with cpu := { s.cpu with
      pendingNmi := s.cpu.pendingNmi || (s.ppu.nmiOut && !s.cpu.nmiPrev), nmiPrev := s.ppu.nmiOut } }

/-- The byte of a completed read goes onto `db`, and into the DMA latch when the engine is the master (rules R86, R496). -/
def State.deliver (s : State) (m : Master) (v : Byte) : State :=
  { s with
    cpu := { s.cpu with db := v }
    dma := if m = .dma then { s.dma with latch := v } else s.dma }

/-- Tick step 5: complete the read (rules R86, R490). -/
def State.completeRead (s : State) (m : Master) : Run :=
  match s.cpu.rw with
  | .write => .ok s
  | .read =>
    match s.busRead s.cpu.ab with
    | .error f => .error f
    | .ok (v, s) => .ok (s.deliver m v)

/-- Tick step 6: the APU step and the IRQ latch (rules R490, R525), and the end of the tick. -/
def State.endTick (s : State) : State :=
  { s with apu := s.apu.step, cpu := { s.cpu with irqLine := s.apu.step.irqOut }, cyc := s.cyc + 1 }

/-- Tick steps 2 to 6, after the master has driven the bus (rule R490). -/
def State.busCycle (s : State) (m : Master) : Run :=
  andThen s.driveBus fun s =>
  andThen s.ppuSteps fun s =>
  andThen (s.latchNmi.completeRead m) fun s =>
  .ok s.endTick

/-! ## The OAM-DMA engine (rules R495 to R497) -/

/-- Index of the DMA cycle about to run (rule R497). -/
def Dma.cycleIndex (d : Dma) : Nat := (if d.align then 513 else 514) - d.pending

/-- Number of dummy reads (rule R497). -/
def Dma.dummies (d : Dma) : Nat := if d.align then 1 else 2

/-- DmaStep's bus cycle: dummy read, read of the page, or write of the latch to 0x2004 (rule R497). -/
def Dma.drive (d : Dma) (c : Cpu) : Cpu :=
  if d.cycleIndex < d.dummies then { c with rw := .read }
  else
    let j := d.cycleIndex - d.dummies
    if j % 2 = 0 then { c with ab := joinBytes d.page (BitVec.ofNat 8 (j / 2)), rw := .read }
    else { c with ab := 0x2004, db := d.latch, rw := .write }

/-- DmaStep's count (rule R497): the engine stops when no cycle is left. -/
def Dma.countDown (d : Dma) : Dma := { d with pending := d.pending - 1, active := decide (d.pending - 1 ≠ 0) }

/-- DmaStep (rule R497); the CPU is frozen (rule R495). -/
def State.dmaStep (s : State) : State := { s with cpu := s.dma.drive s.cpu, dma := s.dma.countDown }

/-- A system tick with the DMA engine as the master (rule R490). -/
def State.dmaTick (s : State) : Run := s.dmaStep.busCycle .dma

/-- Ticks of the DMA engine until it is done, at most `n`. -/
def State.dmaTicks : Nat → State → Run
  | 0, s => .ok s
  | n + 1, s => if s.dma.active then andThen s.dmaTick (State.dmaTicks n) else .ok s

/-- The ticks during which the CPU is stalled (rule R495): none when no DMA is active. -/
def State.finishDma (s : State) : Run := State.dmaTicks (s.dma.pending + 1) s

end Sys2Proof.Machine
end

