-- ==== Sys2Proof/Machine/Ops.lean ====
section
/-! DEFINITION. The shared operations of the CPU: the rows of a cycle table and how they run, one system tick each
(rules R180 to R184), the stack, the interrupt sequence (R530) and the return from it (R331). -/

namespace Sys2Proof.Machine

/-! ## Rows (rules R8, R180, R182)

A row of a cycle table is what the CPU step of that cycle does: it uses `db` and the registers, and drives one bus cycle. -/

/-- A row of a cycle table. -/
abbrev Row := Cpu → Cpu

/-- `rd a`. -/
def Cpu.rd (c : Cpu) (a : Word) : Cpu := { c with ab := a, rw := .read }

/-- `wr a, v`. -/
def Cpu.wr (c : Cpu) (a : Word) (v : Byte) : Cpu := { c with ab := a, rw := .write, db := v }

/-- T ← T + 1. -/
def Cpu.next (c : Cpu) : Cpu := { c with t := c.t + 1 }

/-- T ← 1: the instruction's last row. -/
def Cpu.last (c : Cpu) : Cpu := { c with t := 1 }

/-- The program counter replaced. -/
def Cpu.setPc (c : Cpu) (pc : Word) : Cpu := { c with regs := { c.regs with pc := pc } }

/-- The stack pointer replaced. -/
def Cpu.setS (c : Cpu) (s : Byte) : Cpu := { c with regs := { c.regs with s := s } }

/-- The flags replaced. -/
def Cpu.setP (c : Cpu) (p : Flags) : Cpu := { c with regs := { c.regs with p := p } }

/-- `rd PC; PC ← u16(PC + 1)`: a cycle that consumes a program byte (rule R22). -/
def Cpu.rdPcInc (c : Cpu) : Cpu := (c.rd c.regs.pc).setPc (c.regs.pc + 1)

/-- StackAddr() (rule R182). -/
def stackAddr (s : Byte) : Word := joinBytes 0x01 s

/-- Push(v) as a bus cycle (rule R182). -/
def Cpu.push (c : Cpu) (v : Byte) : Cpu := (c.wr (stackAddr c.regs.s) v).setS (c.regs.s - 1)

/-- `rd StackAddr(); S ← u8(S + 1)` (rule R182, PullStart). -/
def Cpu.rdStackInc (c : Cpu) : Cpu := (c.rd (stackAddr c.regs.s)).setS (c.regs.s + 1)

/-- `rd StackAddr()` (rule R182, PullNext). -/
def Cpu.rdStack (c : Cpu) : Cpu := c.rd (stackAddr c.regs.s)

/-- `rd PC`, PC unchanged: the dummy read of the next program byte. -/
def Cpu.rdPc (c : Cpu) : Cpu := c.rd c.regs.pc

/-! ## Deferred actions (rule R183) -/

/-- Run the deferred action: only `db` and registers are read, only registers written. -/
def Cpu.runDeferred (c : Cpu) : Cpu :=
  match c.deferred with
  | .none => c
  | .op o => { c with regs := o.run c.db c.regs, deferred := .none }
  | .pullA => { c with regs := { c.regs with a := c.db, p := c.regs.p.setNZ c.db }, deferred := .none }
  | .pullP => { c.setP (Flags.ofByte c.db) with deferred := .none }
  | .jump l => { c.setPc (joinBytes c.db l) with deferred := .none }

/-- Bring the state to the instruction boundary: between (a) and (b) of the T1 step (rule R184). -/
def State.commit (s : State) : State := { s with cpu := s.cpu.runDeferred }

/-! ## Running rows -/

/-- One CPU cycle: an active DMA first takes its ticks (rule R495), then the row's CPU step and the rest of the tick. -/
def State.cycle (s : State) (r : Row) : Run :=
  andThen s.finishDma fun s =>
  State.busCycle { s with cpu := r { s.cpu with sync := false } } .cpu

/-- Run the rows of a table until one sets T to 1 (rule R180); then the boundary. A table that ends before is none of
the spec's (log 13). -/
def State.runRows : List Row → State → Run
  | [], s => .error (.noSuchCycle s.cpu.ir s.cpu.t)
  | r :: rows, s =>
    andThen (s.cycle r) fun s => if s.cpu.t = 1 then .ok s.commit else State.runRows rows s

/-- A run as the answer of a meaning. -/
def Run.result : Run → Result
  | .ok s => .next s
  | .error f => .fault f

/-- The state with its CPU replaced. -/
def State.withCpu (s : State) (c : Cpu) : State := { s with cpu := c }

/-- Run rows from cycle `t` on, the CPU first set to `c`. -/
def State.runFrom (s : State) (c : Cpu) (t : Nat) (rows : List Row) : Result :=
  ((s.withCpu { c with t := t }).runRows rows).result

/-! ## Taking an exception: the interrupt sequence (rule R530) -/

/-- The vector of each kind (rules R114, R526, R530). -/
def vectorOf : IntKind → Word
  | .nmi => 0xFFFA
  | .reset => 0xFFFC
  | _ => 0xFFFE

/-- A push cycle of the sequence: for reset, a read instead of the write (rule R530). -/
def Cpu.pushOrRead (c : Cpu) (v : Byte) : Cpu :=
  if c.intKind = .reset then (c.rdStack).setS (c.regs.s - 1) else c.push v

/-- T2: `rd PC`; a genuine BRK consumes the padding byte. -/
def rowIntFetch : Row := fun c => (if c.intKind = .brk then c.rdPcInc else c.rdPc).next

/-- T3: push PCH. -/
def rowIntPushHi : Row := fun c => (c.pushOrRead (hiByte c.regs.pc)).next

/-- T4: push PCL. -/
def rowIntPushLo : Row := fun c => (c.pushOrRead (loByte c.regs.pc)).next

/-- T5: push the status, break bit set only for BRK. -/
def rowIntPushP : Row := fun c => (c.pushOrRead (c.regs.p.toByte (decide (c.intKind = .brk)))).next

/-- T6: read the vector's low byte; I ← 1. -/
def rowIntVectorLo : Row := fun c =>
  let c := { c with ea := vectorOf c.intKind }
  ((c.rd c.ea).setP { c.regs.p with i := true }).next

/-- T7: read the vector's high byte; the jump is deferred. -/
def rowIntVectorHi : Row := fun c =>
  let c := { c with lo := c.db }
  { (c.rd (c.ea + 1)).last with deferred := .jump c.lo, intKind := .none }

/-- Rows T2 to T7 of the interrupt sequence, one for all four kinds (rule R530). -/
def interruptRows : List Row :=
  [rowIntFetch, rowIntPushHi, rowIntPushLo, rowIntPushP, rowIntVectorLo, rowIntVectorHi]

/-- Take an interrupt of kind `k`, from its T2 on (rule R530): BRK, NMI, IRQ and reset. -/
def State.takeInterrupt (s : State) (k : IntKind) : Run :=
  (s.withCpu { s.cpu with intKind := k, t := 2 }).runRows interruptRows

/-! ## Returning from an exception (rule R331) -/

/-- T2 of the instructions that do nothing in it: the dummy read. -/
def rowDummy : Row := fun c => c.rdPc.next

/-- `rd StackAddr(); S ← S + 1`, nothing taken from `db`. -/
def rowPullDummy : Row := fun c => c.rdStackInc.next

/-- T5 of RTI: the flags from the byte pulled; the next read is PCL. -/
def rowRtiSetP : Row := fun c => ((c.setP (Flags.ofByte c.db)).rdStackInc).next

/-- T6 of RTI: PCL is on `db`; read PCH; the jump is deferred. -/
def rowRtiJump : Row := fun c =>
  let c := { c with lo := c.db }
  { c.rdStack.last with deferred := .jump c.lo }

/-- Rows T2 to T6 of RTI (rule R331). -/
def rtiRows : List Row := [rowDummy, rowPullDummy, rowPullDummy, rowRtiSetP, rowRtiJump]

/-- Return from an interrupt: the flags and PC from the stack (rule R331). -/
def State.returnFromInterrupt (s : State) : Run :=
  (s.withCpu { s.cpu with t := 2 }).runRows rtiRows

end Sys2Proof.Machine
end

