-- ==== Sys2Proof/Machine/Operands.lean ====
section
/-! DEFINITION. The addressing modes as rows after the operand fetch (rules R190 to R197), and the shapes composed of
them (rule R200): read-and-use, store, read-modify-write, single-byte, branch, stack, jump, subroutine.

The cycles that fetch operand bytes are the step's (Machine/Fetch.lean). A meaning gets the operand from the
instruction: it stands where the last operand fetch leaves it, the low byte in `lo`, the last byte on `db` (log 6). -/

namespace Sys2Proof.Machine

/-! ## Operand fetch (rules R190 to R199, first rows) -/

/-- M1: `rd PC; PC ← PC + 1`. -/
def rowFetch1 : Row := fun c => c.rdPcInc.next

/-- M2 of a two-byte operand: `lo ← db; rd PC; PC ← PC + 1`. -/
def rowFetch2 : Row := fun c => ({ c with lo := c.db } : Cpu).rdPcInc.next

/-- The CPU after the fetch of a one-byte operand. -/
def Cpu.holdByte (c : Cpu) (b : Byte) : Cpu := { c with db := b }

/-- The CPU after the fetch of a two-byte operand. -/
def Cpu.holdWord (c : Cpu) (a : Word) : Cpu := { c with lo := loByte a, db := hiByte a }

/-- The number of operand bytes of a form (rule R141). -/
def Operand.bytes : Operand → Nat
  | .imm _ | .zp _ | .zpx _ | .zpy _ | .izx _ | .izy _ => 1
  | .abs _ | .abx _ | .aby _ => 2

/-- The CPU after the fetch of a form's operand. -/
def Operand.hold : Operand → Cpu → Cpu
  | .imm b, c | .zp b, c | .zpx b, c | .zpy b, c | .izx b, c | .izy b, c => c.holdByte b
  | .abs a, c | .abx a, c | .aby a, c => c.holdWord a

/-! ## Address arithmetic (rules R82, R142, R182) -/

/-- zext_16(b): an address in page 0. -/
def zeroPage (b : Byte) : Word := b.setWidth 16

/-- PageCross(lo, idx) (rule R182). -/
def pageCross (lo idx : Byte) : Bool := decide (0xFF < lo.toNat + idx.toNat)

/-- hi ++ u8(lo + idx): the indexed address before the carry reaches the high byte (rule R194). -/
def uncarried (hi lo idx : Byte) : Word := joinBytes hi (lo + idx)

/-- u16((hi ++ lo) + idx) (rule R194). -/
def indexed (hi lo idx : Byte) : Word := joinBytes hi lo + idx.setWidth 16

/-- (p & 0xFF00) | u8(p + 1): the second byte of a JMP pointer (rules R82, R197). -/
def pointerNext (p : Word) : Word := joinBytes (hiByte p) (loByte p + 1)

/-- sext_16(b) (rule R7). -/
def signExtend16 (b : Byte) : Word := b.signExtend 16

/-! ## Addressing modes (rules R191 to R196)

`access ea` is the mode's final cycle, whose direction and data the shape chooses; `elide` is true for read-and-use. -/

/-- What a shape does in the final cycle of the mode. -/
abbrev Access := Word → Row

/-- The final cycle at the address just formed. -/
def Cpu.accessAt (c : Cpu) (access : Access) (ea : Word) : Cpu := access ea { c with ea := ea }

/-- ZP, M2 (rule R191). -/
def rowZp (access : Access) : Row := fun c => c.accessAt access (zeroPage c.db)

/-- ZPX and ZPY, M2: the dummy read (rule R192). -/
def rowZpIndexed1 : Row := fun c => (({ c with ptr := c.db } : Cpu).rd (zeroPage c.db)).next

/-- ZPX and ZPY, M3 (rule R192). -/
def rowZpIndexed2 (idx : Regs → Byte) (access : Access) : Row := fun c =>
  c.accessAt access (zeroPage (c.ptr + idx c.regs))

/-- ABS, M3 (rule R193). -/
def rowAbs (access : Access) : Row := fun c =>
  ({ c with hi := c.db } : Cpu).accessAt access (joinBytes c.db c.lo)

/-- ABX and ABY, M3, and IZY, M4: the access when elided and no page is crossed, else the dummy read (rules R194, R196). -/
def rowIndexed1 (idx : Regs → Byte) (elide : Bool) (access : Access) : Row := fun c =>
  let c := { c with hi := c.db }
  if elide && !pageCross c.lo (idx c.regs) then c.accessAt access (uncarried c.hi c.lo (idx c.regs))
  else (c.rd (uncarried c.hi c.lo (idx c.regs))).next

/-- ABX and ABY, M4, and IZY, M5: the access at the address with the carry (rules R194, R196). -/
def rowIndexed2 (idx : Regs → Byte) (access : Access) : Row := fun c =>
  c.accessAt access (indexed c.hi c.lo (idx c.regs))

/-- IZX, M2: the dummy read of the un-indexed pointer (rule R195). -/
def rowIzxDummy : Row := fun c => (({ c with ptr := c.db } : Cpu).rd (zeroPage c.db)).next

/-- IZX, M3: the pointer's low byte (rule R195). -/
def rowIzxLo : Row := fun c =>
  (({ c with ptr := c.ptr + c.regs.x } : Cpu).rd (zeroPage (c.ptr + c.regs.x))).next

/-- IZX, M4 (rule R195), and IZY, M3 (rule R196): the pointer's high byte, which wraps inside page 0. -/
def rowPtrHi : Row := fun c => (({ c with lo := c.db } : Cpu).rd (zeroPage (c.ptr + 1))).next

/-- IZY, M2: the pointer's low byte (rule R196). -/
def rowIzyLo : Row := fun c => (({ c with ptr := c.db } : Cpu).rd (zeroPage c.db)).next

/-- The rows of a mode after its operand fetch (rules R191 to R196); IMM has none (rule R190). -/
def Operand.rows (o : Operand) (elide : Bool) (access : Access) : List Row :=
  match o with
  | .imm _ => []
  | .zp _ => [rowZp access]
  | .zpx _ => [rowZpIndexed1, rowZpIndexed2 Regs.x access]
  | .zpy _ => [rowZpIndexed1, rowZpIndexed2 Regs.y access]
  | .abs _ => [rowAbs access]
  | .abx _ => [rowIndexed1 Regs.x elide access, rowIndexed2 Regs.x access]
  | .aby _ => [rowIndexed1 Regs.y elide access, rowIndexed2 Regs.y access]
  | .izx _ => [rowIzxDummy, rowIzxLo, rowPtrHi, rowAbs access]
  | .izy _ => [rowIzyLo, rowPtrHi, rowIndexed1 Regs.y elide access, rowIndexed2 Regs.y access]

/-- The cycle after the operand fetch: T2 is the first operand byte's. -/
def Operand.firstCycle (o : Operand) : Nat := 2 + o.bytes

/-! ## The address a form reaches (rules R142, R191 to R196), as the rows above form it -/

/-- The pointer at `b` in page 0; the second byte wraps inside the page (rules R82, R195, R196). -/
def State.zeroPagePointer (s : State) (b : Byte) : Word :=
  joinBytes (s.ram.read (b + 1).toNat) (s.ram.read b.toNat)

/-- The address of the final cycle; none for IMM. -/
def Operand.address (o : Operand) (s : State) : Option Word :=
  match o with
  | .imm _ => none
  | .zp b => some (zeroPage b)
  | .zpx b => some (zeroPage (b + s.cpu.regs.x))
  | .zpy b => some (zeroPage (b + s.cpu.regs.y))
  | .abs a => some a
  | .abx a => some (indexed (hiByte a) (loByte a) s.cpu.regs.x)
  | .aby a => some (indexed (hiByte a) (loByte a) s.cpu.regs.y)
  | .izx b => some (s.zeroPagePointer (b + s.cpu.regs.x))
  | .izy b => some (indexed (hiByte (s.zeroPagePointer b)) (loByte (s.zeroPagePointer b)) s.cpu.regs.y)

/-- The base and index that ABX, ABY and IZY add (rules R194, R196); none for the other forms. -/
def Operand.indexing (o : Operand) (s : State) : Option (Word × Byte) :=
  match o with
  | .abx a => some (a, s.cpu.regs.x)
  | .aby a => some (a, s.cpu.regs.y)
  | .izy b => some (s.zeroPagePointer b, s.cpu.regs.y)
  | _ => none

/-- The dummy read a form makes outside page 0, at the address without the carry (rules R194, R196); none where the form
makes no such read. -/
def Operand.dummyRead (o : Operand) (elide : Bool) (s : State) : Option Word :=
  match o.indexing s with
  | none => none
  | some (base, idx) =>
    if elide && !pageCross (loByte base) idx then none else some (uncarried (hiByte base) (loByte base) idx)

/-- The number of cycles of the rows after the operand fetch (rule R200). -/
def Operand.cycles (o : Operand) (elide : Bool) (s : State) : Nat :=
  let extra := if (o.dummyRead elide s).isSome then 1 else 0
  match o with
  | .imm _ => 0
  | .zp _ | .abs _ => 1
  | .zpx _ | .zpy _ => 2
  | .abx _ | .aby _ => 1 + extra
  | .izx _ => 4
  | .izy _ => 3 + extra

/-! ## Read-and-use (rule R230) -/

/-- The final cycle reads the operand and defers the operation. -/
def accessUse (op : ReadOp) : Access := fun ea c => { (c.rd ea).last with deferred := .op op }

/-- IMM: M1 itself reads the operand (rules R190, R230). -/
def rowImmediate (op : ReadOp) : Row := fun c => { c.rdPcInc.last with deferred := .op op }

/-- The read-and-use shape, operand fetched: an immediate operand is on `db` already. -/
def readUse (op : ReadOp) (o : Operand) (s : State) : Result :=
  match o with
  | .imm b => .next (State.commit (s.withCpu { s.cpu.holdByte b with deferred := .op op, t := 1 }))
  | _ => s.runFrom (o.hold s.cpu) o.firstCycle (o.rows true (accessUse op))

/-! ## Store (rule R250) -/

/-- The final cycle writes the register. -/
def accessStore (r : StoreReg) : Access := fun ea c => (c.wr ea (r.value c.regs)).last

/-- The store shape, operand fetched. -/
def store (r : StoreReg) (o : Operand) (s : State) : Result :=
  s.runFrom (o.hold s.cpu) o.firstCycle (o.rows false (accessStore r))

/-! ## Read-modify-write (rules R260, R267) -/

/-- The mode's final cycle reads the old value. -/
def accessModify : Access := fun ea c => (c.rd ea).next

/-- W1: the old value back. -/
def rowWriteBack : Row := fun c => (({ c with m := c.db } : Cpu).wr c.ea c.db).next

/-- W2: the new value, and the flags. -/
def rowModify (op : RmwOp) : Row := fun c =>
  ((c.setP (op.run c.m c.regs.p).2).wr c.ea (op.run c.m c.regs.p).1).last

/-- The rows of a memory read-modify-write after its operand fetch (rule R260). -/
def rmwRows (op : RmwOp) (o : Operand) : List Row := o.rows false accessModify ++ [rowWriteBack, rowModify op]

/-- The read-modify-write shape on memory, operand fetched. -/
def rmwMemory (op : RmwOp) (o : Operand) (s : State) : Result :=
  s.runFrom (o.hold s.cpu) o.firstCycle (rmwRows op o)

/-- T2 of the accumulator form (rule R267). -/
def rowAccumulator (op : RmwOp) : Row := fun c => { c with regs := op.onA c.regs }.rdPc.last

/-- The accumulator form (rule R267). -/
def rmwAccumulator (op : RmwOp) (s : State) : Result := s.runFrom s.cpu 2 [rowAccumulator op]

/-! ## Single-byte (rule R270) -/

/-- T2 of the single-byte shape: the operation, on the dummy read. -/
def rowSingle (op : SingleOp) : Row := fun c => { c with regs := op.run c.regs }.rdPc.last

/-- The single-byte shape. -/
def single (op : SingleOp) (s : State) : Result := s.runFrom s.cpu 2 [rowSingle op]

/-! ## Branch (rule R300) -/

/-- T2: the offset byte is read; taken or not is decided. -/
def rowBranchFetch (k : Cond) : Row := fun c => { c.rdPcInc with t := if k.holds c.regs.p then 3 else 1 }

/-- T3, taken: the target; the last cycle unless a page is crossed. -/
def rowBranchTaken : Row := fun c =>
  let ea := c.regs.pc + signExtend16 c.db
  let c := ({ c with ea := ea } : Cpu).rdPc
  if hiByte ea = hiByte c.regs.pc then (c.setPc ea).last else c.next

/-- T4, page crossed: the dummy read with the old high byte. -/
def rowBranchCross : Row := fun c =>
  ((c.rd (joinBytes (hiByte c.regs.pc) (loByte c.ea))).setPc c.ea).last

/-- The branch shape, offset fetched. -/
def branch (k : Cond) (off : Int) (s : State) : Result :=
  let c := s.cpu.holdByte (BitVec.ofInt 8 off)
  if k.holds c.regs.p then s.runFrom c 3 [rowBranchTaken, rowBranchCross]
  else .next (State.commit (s.withCpu { c with t := 1 }))

/-! ## Stack (rules R315 to R318) -/

/-- T3 of PHA. -/
def rowPushA : Row := fun c => (c.push c.regs.a).last

/-- T3 of PHP: the break bit is set on the pushed byte. -/
def rowPushP : Row := fun c => (c.push (c.regs.p.toByte true)).last

/-- T4 of PLA and PLP: the byte pulled is used in the next T1 step. -/
def rowPull (d : Deferred) : Row := fun c => { c.rdStack.last with deferred := d }

/-- PHA's rows. -/
def phaRows : List Row := [rowDummy, rowPushA]

/-- PHP's rows. -/
def phpRows : List Row := [rowDummy, rowPushP]

/-- PLA's rows. -/
def plaRows : List Row := [rowDummy, rowPullDummy, rowPull .pullA]

/-- PLP's rows. -/
def plpRows : List Row := [rowDummy, rowPullDummy, rowPull .pullP]

/-- PHA (rule R315). -/
def pushA (s : State) : Result := s.runFrom s.cpu 2 phaRows

/-- PHP (rule R316). -/
def pushP (s : State) : Result := s.runFrom s.cpu 2 phpRows

/-- PLA (rule R317). -/
def pullA (s : State) : Result := s.runFrom s.cpu 2 plaRows

/-- PLP (rule R318). -/
def pullP (s : State) : Result := s.runFrom s.cpu 2 plpRows

/-! ## Jumps and subroutines (rules R319 to R322) -/

/-- T3 of JMP absolute: the high byte is read; the jump is deferred. -/
def rowJump : Row := fun c =>
  let c := ({ c with lo := c.db } : Cpu).rdPcInc
  { c.last with deferred := .jump c.lo }

/-- JMP absolute (rule R319), both operand bytes fetched. -/
def jump (a : Word) (s : State) : Result :=
  .next (State.commit (s.withCpu { s.cpu.holdWord a with deferred := .jump (loByte a), t := 1 }))

/-- T4 of JMP indirect (rule R197). -/
def rowPointerLo : Row := fun c =>
  (({ c with hi := c.db, ea := joinBytes c.db c.lo } : Cpu).rd (joinBytes c.db c.lo)).next

/-- T5 of JMP indirect: the carry into the pointer's high byte is suppressed (rule R197). -/
def rowPointerHi : Row := fun c =>
  let c := { c with lo := c.db }
  { (c.rd (pointerNext c.ea)).last with deferred := .jump c.lo }

/-- The rows of JMP indirect after the operand fetch. -/
def jmpIndRows : List Row := [rowPointerLo, rowPointerHi]

/-- JMP absolute-indirect (rule R320). -/
def jumpIndirect (a : Word) (s : State) : Result := s.runFrom (s.cpu.holdWord a) 4 jmpIndRows

/-- T3 of JSR: the dummy read of the stack top. -/
def rowJsrDummy : Row := fun c => ({ c with lo := c.db } : Cpu).rdStack.next

/-- T4 of JSR. -/
def rowJsrPushHi : Row := fun c => (c.push (hiByte c.regs.pc)).next

/-- T5 of JSR. -/
def rowJsrPushLo : Row := fun c => (c.push (loByte c.regs.pc)).next

/-- T6 of JSR: the target's high byte is read after the pushes. -/
def rowJsrTarget : Row := fun c => { c.rdPc.last with deferred := .jump c.lo }

/-- JSR's rows after the fetch of its low byte (rule R321). -/
def jsrRows : List Row := [rowJsrDummy, rowJsrPushHi, rowJsrPushLo, rowJsrTarget]

/-- JSR (rule R321), the low byte fetched and PC at the third byte. The target's high byte is the one the bus returns
at T6, after the pushes; `a` holds the byte that stood there before them (log 6). -/
def jumpSubroutine (a : Word) (s : State) : Result := s.runFrom (s.cpu.holdByte (loByte a)) 3 jsrRows

/-- T5 of RTS: PCL is on `db`; read PCH. -/
def rowRtsHi : Row := fun c => ({ c with lo := c.db } : Cpu).rdStack.next

/-- T6 of RTS: the dummy read at the address pulled, then one past it. -/
def rowRtsJump : Row := fun c => (c.setPc (joinBytes c.db c.lo)).rdPcInc.last

/-- RTS's rows (rule R322). -/
def rtsRows : List Row := [rowDummy, rowPullDummy, rowPullDummy, rowRtsHi, rowRtsJump]

/-- RTS (rule R322). -/
def returnSubroutine (s : State) : Result := s.runFrom s.cpu 2 rtsRows

/-! ## System (rules R330, R331) -/

/-- BRK: the interrupt sequence with kind Brk (rule R330). -/
def breakInstruction (s : State) : Result := (s.takeInterrupt .brk).result

/-- RTI (rule R331). -/
def returnInterrupt (s : State) : Result := s.returnFromInterrupt.result

end Sys2Proof.Machine
end

