-- ==== Sys2Proof/Machine/Branch.lean ====
section
/-! DEFINITION. The branch instructions (rules R300 to R308): each a line over the shared shape `branch` (rule R300). -/

namespace Sys2Proof.Machine

/-- BCC REL, opcode 0x90 (rule R301). -/
def execBcc (off : Int) (s : State) : Result := branch .cc off s

/-- BCS REL, opcode 0xB0 (rule R302). -/
def execBcs (off : Int) (s : State) : Result := branch .cs off s

/-- BEQ REL, opcode 0xF0 (rule R303). -/
def execBeq (off : Int) (s : State) : Result := branch .eq off s

/-- BMI REL, opcode 0x30 (rule R304). -/
def execBmi (off : Int) (s : State) : Result := branch .mi off s

/-- BNE REL, opcode 0xD0 (rule R305). -/
def execBne (off : Int) (s : State) : Result := branch .ne off s

/-- BPL REL, opcode 0x10 (rule R306). -/
def execBpl (off : Int) (s : State) : Result := branch .pl off s

/-- BVC REL, opcode 0x50 (rule R307). -/
def execBvc (off : Int) (s : State) : Result := branch .vc off s

/-- BVS REL, opcode 0x70 (rule R308). -/
def execBvs (off : Int) (s : State) : Result := branch .vs off s

end Sys2Proof.Machine
end

