-- ==== Sys2Proof/Machine/ReadUse.lean ====
section
/-! DEFINITION. The read-and-use instructions (rules R230 to R242): each a line over the shared shape `readUse` (rule R230). -/

namespace Sys2Proof.Machine

/-- ADC IZX, opcode 0x61 (rule R231). -/
def execAdcIzx (b : Byte) (s : State) : Result := readUse .adc (.izx b) s
/-- ADC ZP, opcode 0x65 (rule R231). -/
def execAdcZp (b : Byte) (s : State) : Result := readUse .adc (.zp b) s
/-- ADC IMM, opcode 0x69 (rule R231). -/
def execAdcImm (b : Byte) (s : State) : Result := readUse .adc (.imm b) s
/-- ADC ABS, opcode 0x6D (rule R231). -/
def execAdcAbs (a : Word) (s : State) : Result := readUse .adc (.abs a) s
/-- ADC IZY, opcode 0x71 (rule R231). -/
def execAdcIzy (b : Byte) (s : State) : Result := readUse .adc (.izy b) s
/-- ADC ZPX, opcode 0x75 (rule R231). -/
def execAdcZpx (b : Byte) (s : State) : Result := readUse .adc (.zpx b) s
/-- ADC ABY, opcode 0x79 (rule R231). -/
def execAdcAby (a : Word) (s : State) : Result := readUse .adc (.aby a) s
/-- ADC ABX, opcode 0x7D (rule R231). -/
def execAdcAbx (a : Word) (s : State) : Result := readUse .adc (.abx a) s

/-- AND IZX, opcode 0x21 (rule R232). -/
def execAndIzx (b : Byte) (s : State) : Result := readUse .and (.izx b) s
/-- AND ZP, opcode 0x25 (rule R232). -/
def execAndZp (b : Byte) (s : State) : Result := readUse .and (.zp b) s
/-- AND IMM, opcode 0x29 (rule R232). -/
def execAndImm (b : Byte) (s : State) : Result := readUse .and (.imm b) s
/-- AND ABS, opcode 0x2D (rule R232). -/
def execAndAbs (a : Word) (s : State) : Result := readUse .and (.abs a) s
/-- AND IZY, opcode 0x31 (rule R232). -/
def execAndIzy (b : Byte) (s : State) : Result := readUse .and (.izy b) s
/-- AND ZPX, opcode 0x35 (rule R232). -/
def execAndZpx (b : Byte) (s : State) : Result := readUse .and (.zpx b) s
/-- AND ABY, opcode 0x39 (rule R232). -/
def execAndAby (a : Word) (s : State) : Result := readUse .and (.aby a) s
/-- AND ABX, opcode 0x3D (rule R232). -/
def execAndAbx (a : Word) (s : State) : Result := readUse .and (.abx a) s

/-- BIT ZP, opcode 0x24 (rule R242). -/
def execBitZp (b : Byte) (s : State) : Result := readUse .bit (.zp b) s
/-- BIT ABS, opcode 0x2C (rule R242). -/
def execBitAbs (a : Word) (s : State) : Result := readUse .bit (.abs a) s

/-- CMP IZX, opcode 0xC1 (rule R233). -/
def execCmpIzx (b : Byte) (s : State) : Result := readUse .cmp (.izx b) s
/-- CMP ZP, opcode 0xC5 (rule R233). -/
def execCmpZp (b : Byte) (s : State) : Result := readUse .cmp (.zp b) s
/-- CMP IMM, opcode 0xC9 (rule R233). -/
def execCmpImm (b : Byte) (s : State) : Result := readUse .cmp (.imm b) s
/-- CMP ABS, opcode 0xCD (rule R233). -/
def execCmpAbs (a : Word) (s : State) : Result := readUse .cmp (.abs a) s
/-- CMP IZY, opcode 0xD1 (rule R233). -/
def execCmpIzy (b : Byte) (s : State) : Result := readUse .cmp (.izy b) s
/-- CMP ZPX, opcode 0xD5 (rule R233). -/
def execCmpZpx (b : Byte) (s : State) : Result := readUse .cmp (.zpx b) s
/-- CMP ABY, opcode 0xD9 (rule R233). -/
def execCmpAby (a : Word) (s : State) : Result := readUse .cmp (.aby a) s
/-- CMP ABX, opcode 0xDD (rule R233). -/
def execCmpAbx (a : Word) (s : State) : Result := readUse .cmp (.abx a) s

/-- CPX IMM, opcode 0xE0 (rule R234). -/
def execCpxImm (b : Byte) (s : State) : Result := readUse .cpx (.imm b) s
/-- CPX ZP, opcode 0xE4 (rule R234). -/
def execCpxZp (b : Byte) (s : State) : Result := readUse .cpx (.zp b) s
/-- CPX ABS, opcode 0xEC (rule R234). -/
def execCpxAbs (a : Word) (s : State) : Result := readUse .cpx (.abs a) s

/-- CPY IMM, opcode 0xC0 (rule R235). -/
def execCpyImm (b : Byte) (s : State) : Result := readUse .cpy (.imm b) s
/-- CPY ZP, opcode 0xC4 (rule R235). -/
def execCpyZp (b : Byte) (s : State) : Result := readUse .cpy (.zp b) s
/-- CPY ABS, opcode 0xCC (rule R235). -/
def execCpyAbs (a : Word) (s : State) : Result := readUse .cpy (.abs a) s

/-- EOR IZX, opcode 0x41 (rule R236). -/
def execEorIzx (b : Byte) (s : State) : Result := readUse .eor (.izx b) s
/-- EOR ZP, opcode 0x45 (rule R236). -/
def execEorZp (b : Byte) (s : State) : Result := readUse .eor (.zp b) s
/-- EOR IMM, opcode 0x49 (rule R236). -/
def execEorImm (b : Byte) (s : State) : Result := readUse .eor (.imm b) s
/-- EOR ABS, opcode 0x4D (rule R236). -/
def execEorAbs (a : Word) (s : State) : Result := readUse .eor (.abs a) s
/-- EOR IZY, opcode 0x51 (rule R236). -/
def execEorIzy (b : Byte) (s : State) : Result := readUse .eor (.izy b) s
/-- EOR ZPX, opcode 0x55 (rule R236). -/
def execEorZpx (b : Byte) (s : State) : Result := readUse .eor (.zpx b) s
/-- EOR ABY, opcode 0x59 (rule R236). -/
def execEorAby (a : Word) (s : State) : Result := readUse .eor (.aby a) s
/-- EOR ABX, opcode 0x5D (rule R236). -/
def execEorAbx (a : Word) (s : State) : Result := readUse .eor (.abx a) s

/-- LDA IZX, opcode 0xA1 (rule R237). -/
def execLdaIzx (b : Byte) (s : State) : Result := readUse .lda (.izx b) s
/-- LDA ZP, opcode 0xA5 (rule R237). -/
def execLdaZp (b : Byte) (s : State) : Result := readUse .lda (.zp b) s
/-- LDA IMM, opcode 0xA9 (rule R237). -/
def execLdaImm (b : Byte) (s : State) : Result := readUse .lda (.imm b) s
/-- LDA ABS, opcode 0xAD (rule R237). -/
def execLdaAbs (a : Word) (s : State) : Result := readUse .lda (.abs a) s
/-- LDA IZY, opcode 0xB1 (rule R237). -/
def execLdaIzy (b : Byte) (s : State) : Result := readUse .lda (.izy b) s
/-- LDA ZPX, opcode 0xB5 (rule R237). -/
def execLdaZpx (b : Byte) (s : State) : Result := readUse .lda (.zpx b) s
/-- LDA ABY, opcode 0xB9 (rule R237). -/
def execLdaAby (a : Word) (s : State) : Result := readUse .lda (.aby a) s
/-- LDA ABX, opcode 0xBD (rule R237). -/
def execLdaAbx (a : Word) (s : State) : Result := readUse .lda (.abx a) s

/-- LDX IMM, opcode 0xA2 (rule R238). -/
def execLdxImm (b : Byte) (s : State) : Result := readUse .ldx (.imm b) s
/-- LDX ZP, opcode 0xA6 (rule R238). -/
def execLdxZp (b : Byte) (s : State) : Result := readUse .ldx (.zp b) s
/-- LDX ABS, opcode 0xAE (rule R238). -/
def execLdxAbs (a : Word) (s : State) : Result := readUse .ldx (.abs a) s
/-- LDX ZPY, opcode 0xB6 (rule R238). -/
def execLdxZpy (b : Byte) (s : State) : Result := readUse .ldx (.zpy b) s
/-- LDX ABY, opcode 0xBE (rule R238). -/
def execLdxAby (a : Word) (s : State) : Result := readUse .ldx (.aby a) s

/-- LDY IMM, opcode 0xA0 (rule R239). -/
def execLdyImm (b : Byte) (s : State) : Result := readUse .ldy (.imm b) s
/-- LDY ZP, opcode 0xA4 (rule R239). -/
def execLdyZp (b : Byte) (s : State) : Result := readUse .ldy (.zp b) s
/-- LDY ABS, opcode 0xAC (rule R239). -/
def execLdyAbs (a : Word) (s : State) : Result := readUse .ldy (.abs a) s
/-- LDY ZPX, opcode 0xB4 (rule R239). -/
def execLdyZpx (b : Byte) (s : State) : Result := readUse .ldy (.zpx b) s
/-- LDY ABX, opcode 0xBC (rule R239). -/
def execLdyAbx (a : Word) (s : State) : Result := readUse .ldy (.abx a) s

/-- ORA IZX, opcode 0x01 (rule R240). -/
def execOraIzx (b : Byte) (s : State) : Result := readUse .ora (.izx b) s
/-- ORA ZP, opcode 0x05 (rule R240). -/
def execOraZp (b : Byte) (s : State) : Result := readUse .ora (.zp b) s
/-- ORA IMM, opcode 0x09 (rule R240). -/
def execOraImm (b : Byte) (s : State) : Result := readUse .ora (.imm b) s
/-- ORA ABS, opcode 0x0D (rule R240). -/
def execOraAbs (a : Word) (s : State) : Result := readUse .ora (.abs a) s
/-- ORA IZY, opcode 0x11 (rule R240). -/
def execOraIzy (b : Byte) (s : State) : Result := readUse .ora (.izy b) s
/-- ORA ZPX, opcode 0x15 (rule R240). -/
def execOraZpx (b : Byte) (s : State) : Result := readUse .ora (.zpx b) s
/-- ORA ABY, opcode 0x19 (rule R240). -/
def execOraAby (a : Word) (s : State) : Result := readUse .ora (.aby a) s
/-- ORA ABX, opcode 0x1D (rule R240). -/
def execOraAbx (a : Word) (s : State) : Result := readUse .ora (.abx a) s

/-- SBC IZX, opcode 0xE1 (rule R241). -/
def execSbcIzx (b : Byte) (s : State) : Result := readUse .sbc (.izx b) s
/-- SBC ZP, opcode 0xE5 (rule R241). -/
def execSbcZp (b : Byte) (s : State) : Result := readUse .sbc (.zp b) s
/-- SBC IMM, opcode 0xE9 (rule R241). -/
def execSbcImm (b : Byte) (s : State) : Result := readUse .sbc (.imm b) s
/-- SBC ABS, opcode 0xED (rule R241). -/
def execSbcAbs (a : Word) (s : State) : Result := readUse .sbc (.abs a) s
/-- SBC IZY, opcode 0xF1 (rule R241). -/
def execSbcIzy (b : Byte) (s : State) : Result := readUse .sbc (.izy b) s
/-- SBC ZPX, opcode 0xF5 (rule R241). -/
def execSbcZpx (b : Byte) (s : State) : Result := readUse .sbc (.zpx b) s
/-- SBC ABY, opcode 0xF9 (rule R241). -/
def execSbcAby (a : Word) (s : State) : Result := readUse .sbc (.aby a) s
/-- SBC ABX, opcode 0xFD (rule R241). -/
def execSbcAbx (a : Word) (s : State) : Result := readUse .sbc (.abx a) s

end Sys2Proof.Machine
end

