-- ==== Sys2Proof/Machine/Rmw.lean ====
section
/-! DEFINITION. The read-modify-write instructions (rules R260 to R267): each a line over the shared shapes `rmwMemory` (rule R260) and `rmwAccumulator` (rule R267). -/

namespace Sys2Proof.Machine

/-- ASL ZP, opcode 0x06 (rule R261). -/
def execAslZp (b : Byte) (s : State) : Result := rmwMemory .asl (.zp b) s
/-- ASL ACC, opcode 0x0A (rule R261). -/
def execAslAcc (s : State) : Result := rmwAccumulator .asl s
/-- ASL ABS, opcode 0x0E (rule R261). -/
def execAslAbs (a : Word) (s : State) : Result := rmwMemory .asl (.abs a) s
/-- ASL ZPX, opcode 0x16 (rule R261). -/
def execAslZpx (b : Byte) (s : State) : Result := rmwMemory .asl (.zpx b) s
/-- ASL ABX, opcode 0x1E (rule R261). -/
def execAslAbx (a : Word) (s : State) : Result := rmwMemory .asl (.abx a) s

/-- DEC ZP, opcode 0xC6 (rule R266). -/
def execDecZp (b : Byte) (s : State) : Result := rmwMemory .dec (.zp b) s
/-- DEC ABS, opcode 0xCE (rule R266). -/
def execDecAbs (a : Word) (s : State) : Result := rmwMemory .dec (.abs a) s
/-- DEC ZPX, opcode 0xD6 (rule R266). -/
def execDecZpx (b : Byte) (s : State) : Result := rmwMemory .dec (.zpx b) s
/-- DEC ABX, opcode 0xDE (rule R266). -/
def execDecAbx (a : Word) (s : State) : Result := rmwMemory .dec (.abx a) s

/-- INC ZP, opcode 0xE6 (rule R265). -/
def execIncZp (b : Byte) (s : State) : Result := rmwMemory .inc (.zp b) s
/-- INC ABS, opcode 0xEE (rule R265). -/
def execIncAbs (a : Word) (s : State) : Result := rmwMemory .inc (.abs a) s
/-- INC ZPX, opcode 0xF6 (rule R265). -/
def execIncZpx (b : Byte) (s : State) : Result := rmwMemory .inc (.zpx b) s
/-- INC ABX, opcode 0xFE (rule R265). -/
def execIncAbx (a : Word) (s : State) : Result := rmwMemory .inc (.abx a) s

/-- LSR ZP, opcode 0x46 (rule R262). -/
def execLsrZp (b : Byte) (s : State) : Result := rmwMemory .lsr (.zp b) s
/-- LSR ACC, opcode 0x4A (rule R262). -/
def execLsrAcc (s : State) : Result := rmwAccumulator .lsr s
/-- LSR ABS, opcode 0x4E (rule R262). -/
def execLsrAbs (a : Word) (s : State) : Result := rmwMemory .lsr (.abs a) s
/-- LSR ZPX, opcode 0x56 (rule R262). -/
def execLsrZpx (b : Byte) (s : State) : Result := rmwMemory .lsr (.zpx b) s
/-- LSR ABX, opcode 0x5E (rule R262). -/
def execLsrAbx (a : Word) (s : State) : Result := rmwMemory .lsr (.abx a) s

/-- ROL ZP, opcode 0x26 (rule R263). -/
def execRolZp (b : Byte) (s : State) : Result := rmwMemory .rol (.zp b) s
/-- ROL ACC, opcode 0x2A (rule R263). -/
def execRolAcc (s : State) : Result := rmwAccumulator .rol s
/-- ROL ABS, opcode 0x2E (rule R263). -/
def execRolAbs (a : Word) (s : State) : Result := rmwMemory .rol (.abs a) s
/-- ROL ZPX, opcode 0x36 (rule R263). -/
def execRolZpx (b : Byte) (s : State) : Result := rmwMemory .rol (.zpx b) s
/-- ROL ABX, opcode 0x3E (rule R263). -/
def execRolAbx (a : Word) (s : State) : Result := rmwMemory .rol (.abx a) s

/-- ROR ZP, opcode 0x66 (rule R264). -/
def execRorZp (b : Byte) (s : State) : Result := rmwMemory .ror (.zp b) s
/-- ROR ACC, opcode 0x6A (rule R264). -/
def execRorAcc (s : State) : Result := rmwAccumulator .ror s
/-- ROR ABS, opcode 0x6E (rule R264). -/
def execRorAbs (a : Word) (s : State) : Result := rmwMemory .ror (.abs a) s
/-- ROR ZPX, opcode 0x76 (rule R264). -/
def execRorZpx (b : Byte) (s : State) : Result := rmwMemory .ror (.zpx b) s
/-- ROR ABX, opcode 0x7E (rule R264). -/
def execRorAbx (a : Word) (s : State) : Result := rmwMemory .ror (.abx a) s

end Sys2Proof.Machine
end

