-- ==== Sys2Proof/Machine/Single.lean ====
section
/-! DEFINITION. The single-byte instructions (rules R270 to R288): each a line over the shared shape `single` (rule R270). -/

namespace Sys2Proof.Machine

/-- CLC, opcode 0x18 (rule R271). -/
def execClc (s : State) : Result := single .clc s

/-- CLD, opcode 0xD8 (rule R272). -/
def execCld (s : State) : Result := single .cld s

/-- CLI, opcode 0x58 (rule R273). -/
def execCli (s : State) : Result := single .cli s

/-- CLV, opcode 0xB8 (rule R274). -/
def execClv (s : State) : Result := single .clv s

/-- DEX, opcode 0xCA (rule R275). -/
def execDex (s : State) : Result := single .dex s

/-- DEY, opcode 0x88 (rule R276). -/
def execDey (s : State) : Result := single .dey s

/-- INX, opcode 0xE8 (rule R277). -/
def execInx (s : State) : Result := single .inx s

/-- INY, opcode 0xC8 (rule R278). -/
def execIny (s : State) : Result := single .iny s

/-- NOP, opcode 0xEA (rule R279). -/
def execNop (s : State) : Result := single .nop s

/-- SEC, opcode 0x38 (rule R280). -/
def execSec (s : State) : Result := single .sec s

/-- SED, opcode 0xF8 (rule R281). -/
def execSed (s : State) : Result := single .sed s

/-- SEI, opcode 0x78 (rule R282). -/
def execSei (s : State) : Result := single .sei s

/-- TAX, opcode 0xAA (rule R283). -/
def execTax (s : State) : Result := single .tax s

/-- TAY, opcode 0xA8 (rule R284). -/
def execTay (s : State) : Result := single .tay s

/-- TSX, opcode 0xBA (rule R285). -/
def execTsx (s : State) : Result := single .tsx s

/-- TXA, opcode 0x8A (rule R286). -/
def execTxa (s : State) : Result := single .txa s

/-- TXS, opcode 0x9A (rule R287). -/
def execTxs (s : State) : Result := single .txs s

/-- TYA, opcode 0x98 (rule R288). -/
def execTya (s : State) : Result := single .tya s

end Sys2Proof.Machine
end

