-- ==== Sys2Proof/Machine/StackJump.lean ====
section
/-! DEFINITION. Stack, jump and subroutine instructions (rules R315 to R322). -/

namespace Sys2Proof.Machine

/-- JMP ABS, opcode 0x4C (rule R319). -/
def execJmpAbs (a : Word) (s : State) : Result := jump a s
/-- JMP IND, opcode 0x6C (rule R320). -/
def execJmpInd (a : Word) (s : State) : Result := jumpIndirect a s

/-- JSR ABS, opcode 0x20 (rule R321). -/
def execJsr (a : Word) (s : State) : Result := jumpSubroutine a s

/-- PHA, opcode 0x48 (rule R315). -/
def execPha (s : State) : Result := pushA s

/-- PHP, opcode 0x08 (rule R316). -/
def execPhp (s : State) : Result := pushP s

/-- PLA, opcode 0x68 (rule R317). -/
def execPla (s : State) : Result := pullA s

/-- PLP, opcode 0x28 (rule R318). -/
def execPlp (s : State) : Result := pullP s

/-- RTS, opcode 0x60 (rule R322). -/
def execRts (s : State) : Result := returnSubroutine s

end Sys2Proof.Machine
end

