-- ==== Sys2Proof/Machine/Store.lean ====
section
/-! DEFINITION. The store instructions (rules R250 to R253): each a line over the shared shape `store` (rule R250). -/

namespace Sys2Proof.Machine

/-- STA IZX, opcode 0x81 (rule R251). -/
def execStaIzx (b : Byte) (s : State) : Result := store .a (.izx b) s
/-- STA ZP, opcode 0x85 (rule R251). -/
def execStaZp (b : Byte) (s : State) : Result := store .a (.zp b) s
/-- STA ABS, opcode 0x8D (rule R251). -/
def execStaAbs (a : Word) (s : State) : Result := store .a (.abs a) s
/-- STA IZY, opcode 0x91 (rule R251). -/
def execStaIzy (b : Byte) (s : State) : Result := store .a (.izy b) s
/-- STA ZPX, opcode 0x95 (rule R251). -/
def execStaZpx (b : Byte) (s : State) : Result := store .a (.zpx b) s
/-- STA ABY, opcode 0x99 (rule R251). -/
def execStaAby (a : Word) (s : State) : Result := store .a (.aby a) s
/-- STA ABX, opcode 0x9D (rule R251). -/
def execStaAbx (a : Word) (s : State) : Result := store .a (.abx a) s

/-- STX ZP, opcode 0x86 (rule R252). -/
def execStxZp (b : Byte) (s : State) : Result := store .x (.zp b) s
/-- STX ABS, opcode 0x8E (rule R252). -/
def execStxAbs (a : Word) (s : State) : Result := store .x (.abs a) s
/-- STX ZPY, opcode 0x96 (rule R252). -/
def execStxZpy (b : Byte) (s : State) : Result := store .x (.zpy b) s

/-- STY ZP, opcode 0x84 (rule R253). -/
def execStyZp (b : Byte) (s : State) : Result := store .y (.zp b) s
/-- STY ABS, opcode 0x8C (rule R253). -/
def execStyAbs (a : Word) (s : State) : Result := store .y (.abs a) s
/-- STY ZPX, opcode 0x94 (rule R253). -/
def execStyZpx (b : Byte) (s : State) : Result := store .y (.zpx b) s

end Sys2Proof.Machine
end

