-- ==== Sys2Proof/Machine/System.lean ====
section
/-! DEFINITION. The system instructions BRK and RTI (rules R330, R331). -/

namespace Sys2Proof.Machine

/-- BRK, opcode 0x00 (rule R330). -/
def execBrk (s : State) : Result := breakInstruction s

/-- RTI, opcode 0x40 (rule R331). -/
def execRti (s : State) : Result := returnInterrupt s

end Sys2Proof.Machine
end

