-- ==== Sys2Proof/Machine/Fetch.lean ====
section
/-! DEFINITION. The T1 step with its interrupt poll (rule R184), the fetch of an instruction's operand bytes, and one
instruction or interrupt sequence from boundary to boundary (rule R201; log 5). -/

namespace Sys2Proof.Machine

/-! ## The T1 step (rule R184) -/

/-- The interrupt the poll finds: reset before NMI before IRQ, the IRQ masked by I (rules R184 b, R528). -/
def Cpu.pollKind (c : Cpu) : IntKind :=
  if c.pendingReset then .reset
  else if c.pendingNmi then .nmi
  else if c.irqLine && !c.regs.p.i then .irq
  else .none

/-- The poll: the kind is fixed, and the pending bit it consumes is cleared (rule R184 b). -/
def Cpu.poll (c : Cpu) : Cpu :=
  match c.pollKind with
  | .reset => { c with pendingReset := false, intKind := .reset }
  | .nmi => { c with pendingNmi := false, intKind := .nmi }
  | .irq => { c with intKind := .irq }
  | _ => { c with intKind := .none }

/-- The opcode fetch: PC is advanced only when nothing is injected (rule R184 c). -/
def Cpu.fetchOpcode (c : Cpu) : Cpu :=
  { (if c.intKind = .none then c.rdPcInc else c.rdPc) with sync := true, t := 2 }

/-- The T1 step (rule R184). -/
def Cpu.stepT1 (c : Cpu) : Cpu := c.runDeferred.poll.fetchOpcode

/-- The tick of the T1 step, after the ticks of an active DMA (rules R490, R495). -/
def State.fetchTick (s : State) : Run :=
  andThen s.finishDma fun s => (s.withCpu { s.cpu with sync := false }.stepT1).busCycle .cpu

/-! ## The operand bytes (rules R190 to R199) -/

/-- How many operand bytes are fetched before the meaning starts: all of them, but one for JSR, which reads its third
byte after its pushes (rule R321; log 6). -/
def fetchCount : Instr → Nat
  | .jsr _ => 1
  | i => i.operandBytes

/-- The instruction whose opcode is on `db` after the T1 tick, and the state after the fetch of its operand; an opcode
byte outside the table is a fault, before any further bus cycle (rule R185). The third byte of JSR is only looked at. -/
def State.fetchInstr (s : State) : Except Fault (Instr × State) :=
  let op := s.cpu.db
  let s := s.withCpu { s.cpu with ir := op }
  match opcodeRow op 0 0 with
  | none => .error (.illegalOpcode op (s.cpu.regs.pc - 1))
  | some i =>
    match fetchCount i with
    | 0 => .ok (i, s)
    | 1 =>
      match s.cycle rowFetch1 with
      | .error f => .error f
      | .ok s => .ok ((opcodeRow op s.cpu.db ((s.peek s.cpu.regs.pc).getD 0)).getD i, s)
    | _ =>
      match s.cycle rowFetch1 with
      | .error f => .error f
      | .ok s1 =>
        match s1.cycle rowFetch2 with
        | .error f => .error f
        | .ok s2 => .ok ((opcodeRow op s1.cpu.db s2.cpu.db).getD i, s2)

/-! ## Boundary to boundary -/

/-- What follows the T1 tick: the sequence of the interrupt the poll found, or the instruction fetched. -/
def State.afterPoll (s : State) : Result :=
  match s.cpu.intKind with
  | .none =>
    match s.fetchInstr with
    | .error f => .fault f
    | .ok (i, s) => exec i s
  | k => ((s.withCpu { s.cpu with ir := 0 }).takeInterrupt k).result

/-- The DMA an instruction started runs before the next boundary (rule R495). -/
def Result.finish : Result → Result
  | .next s => s.finishDma.result
  | .fault f => .fault f
  | .refused r => .refused r

/-- One instruction or one interrupt sequence, from boundary to boundary (rules R184, R201). -/
def State.instrStep (s : State) : Result :=
  match s.fetchTick with
  | .error f => .fault f
  | .ok s => Result.finish s.afterPoll

end Sys2Proof.Machine
end

