-- ==== Sys2Proof/Machine/Cycle.lean ====
section
/-! DEFINITION. The machine one system tick at a time: the cycle table of every opcode (rules R180, R185, R200), one CPU
step, and one tick (rule R490). The instruction step of Machine/Fetch.lean runs the same rows. -/

namespace Sys2Proof.Machine

/-- The fetch rows of a memory form. -/
def Operand.fetchRows (o : Operand) : List Row := if o.bytes = 1 then [rowFetch1] else [rowFetch1, rowFetch2]

/-- Rows T2 on of a shape (rules R190 to R200, R230, R250, R260, R270, R300, R315 to R322, R330, R331). -/
def Form.table : Form → List Row
  | .readUse op (.imm _) => [rowImmediate op]
  | .readUse op o => o.fetchRows ++ o.rows true (accessUse op)
  | .store r o => o.fetchRows ++ o.rows false (accessStore r)
  | .rmw op o => o.fetchRows ++ rmwRows op o
  | .rmwAcc op => [rowAccumulator op]
  | .single op => [rowSingle op]
  | .branch k _ => [rowBranchFetch k, rowBranchTaken, rowBranchCross]
  | .pha => phaRows
  | .php => phpRows
  | .pla => plaRows
  | .plp => plpRows
  | .jmp _ => [rowFetch1, rowJump]
  | .jmpInd _ => [rowFetch1, rowFetch2] ++ jmpIndRows
  | .jsr _ => rowFetch1 :: jsrRows
  | .rts => rtsRows
  | .brk => interruptRows
  | .rti => rtiRows

/-- The cycle table of an opcode byte, row T2 first; none where the byte is no opcode (rule R152). -/
def opcodeTable (op : Byte) : Option (List Row) := (opcodeRow op 0 0).map fun i => (formOf i).table

/-- Row `t` of the cycle table of `ir`. -/
def Cpu.runRow (c : Cpu) : Except Fault Cpu :=
  match opcodeTable c.ir with
  | none => .error (.illegalOpcode c.ir (c.regs.pc - 1))
  | some rows =>
    match rows[c.t - 2]? with
    | none => .error (.noSuchCycle c.ir c.t)
    | some r => .ok (r c)

/-- The T2 step: the opcode into `ir`, 0x00 when an interrupt is injected; then row T2 (rule R185). -/
def Cpu.stepT2 (c : Cpu) : Except Fault Cpu :=
  match c.intKind with
  | .reset | .nmi | .irq => ({ c with ir := 0 } : Cpu).runRow
  | k => ({ c with ir := c.db, intKind := if c.db = 0 then .brk else k } : Cpu).runRow

/-- ResetSample (rule R186): the instruction in progress is abandoned. -/
def Cpu.resetSample (c : Cpu) : Cpu := { c with pendingReset := true, t := 1, deferred := .none }

/-- CpuStep (rule R180). -/
def Cpu.step (c : Cpu) : Except Fault Cpu :=
  let c := if c.resetLine then c.resetSample else c
  let c := { c with sync := false }
  if c.t = 1 then .ok c.stepT1
  else if c.t = 2 then c.stepT2
  else c.runRow

/-- Tick (rule R490): the DMA engine or the CPU drives the bus, then steps 2 to 6; a fault already raised ends it. -/
def State.tick (s : State) : Run :=
  match s.fault with
  | some f => .error f
  | none =>
    if s.dma.active then s.dmaTick
    else
      match s.cpu.step with
      | .error f => .error f
      | .ok c => (s.withCpu c).busCycle .cpu

/-- `n` ticks, or fewer when one faults. -/
def State.ticks : Nat → State → Run
  | 0, s => .ok s
  | n + 1, s => andThen s.tick (State.ticks n)

end Sys2Proof.Machine
end

