-- ==== Sys2Proof/Machine/HostOps.lean ====
section
/-! DEFINITION. What the host does to the machine between ticks (rules R510 to R513, R523): construct, run a frame, read
the frame buffer, drain the samples, answer the controllers, drive RESET. No instruction calls these. -/

namespace Sys2Proof.Machine

/-- The sizes construct accepts (rule R523). -/
def Cartridge.sizesOk (c : Cartridge) : Bool :=
  decide (c.prgRomLen ≠ 0) && decide (c.prgRomLen % 16384 = 0) && decide (c.chrRomLen % 8192 = 0) &&
    (decide (c.prgRamLen = 0) || decide (c.prgRamLen = 8192))

/-- construct(cartridge), with the other parameters of rule R4 (rules R510, R523, R571). -/
def State.construct (c : Cartridge) (po : PowerOn) (audio : AudioParams) : Run :=
  if c.sizesOk then .ok (State.powerOn c po audio) else .error .cartridgeSize

/-- Ticks until frame_complete rises, at most `n`; none when it has not risen by then. -/
def State.runFrame : Nat → State → Option Run
  | 0, _ => none
  | n + 1, s =>
    match s.tick with
    | .error f => some (.error f)
    | .ok s' => if s'.ppu.frameComplete && !s.ppu.frameComplete then some (.ok s') else State.runFrame n s'

/-- More ticks than any frame has: a call runs at most 29,781 ticks, unless DMA or PPU state was set by hand (rule R511). -/
def frameFuel : Nat := 60000

/-- run_single_frame() (rule R511). -/
def State.runSingleFrame (s : State) : Option Run := s.runFrame frameFuel

/-- frame_buffer()[row][column] (rules R394, R512). -/
def State.framePixel (s : State) (row col : Nat) : Byte := s.ppu.frameBuffer.read (row * 256 + col)

/-- sample_buffer(): the samples since the last call, and the write position rewound (rule R512). DESIGN CHOICE (log 17):
what it returns when RING_LEN samples or more came since the last call is left open by the spec; here, as without a
wrap, the positions below the write position. -/
def State.drainSamples (s : State) : List Rat × State :=
  ((List.range s.apu.sample.writePos).map (Cells.read 0 s.apu.sample.ring),
    { s with apu := { s.apu with sample := { s.apu.sample with writePos := 0 } } })

/-- set_controller_callback: the host's answers from now on, one at each falling edge (rules R502, R512; log 9). -/
def State.setControllers (s : State) (answers : List (Byte × Byte)) : State :=
  { s with ctl := { s.ctl with answers := answers } }

/-- The RESET input driven (rules R6, R186; log 15). -/
def State.driveReset (s : State) (on : Bool) : State := s.withCpu { s.cpu with resetLine := on }

end Sys2Proof.Machine
end

