-- ==== Sys2Proof/Machine/Step.lean ====
section
/-! DEFINITION. One step of the machine: an instruction or an interrupt sequence from the instruction boundary (rule R184),
or one system tick where the machine does not stand at one. -/

namespace Sys2Proof.Machine

/-- Step (rules R180, R184, R201, R490, R520; log 5). A fault already raised is answered again. A state in the middle of
an instruction, or with RESET asserted, moves by one system tick. -/
def step (s : State) : Host.Outcome State Fault Refusal :=
  match s.fault with
  | some f => .fault f
  | none => if s.cpu.resetLine = true ∨ s.cpu.t ≠ 1 then s.tick.result else s.instrStep

/-- The three bytes from an address on lie in memory a program can be loaded into. -/
def State.loadable (s : State) (a : Word) : Bool :=
  (s.peek a).isSome && (s.peek (a + 1)).isSome && (s.peek (a + 2)).isSome

/-- The state with the word's bytes stored where the next step fetches: at PC, or at 0 when no program can be loaded at
PC; no interrupt pending, no DMA, no fault, at the instruction boundary (log 3). `nbits` says how many bits the opcode
table gives; the bytes above them are zero. -/
def State.withFetchWord (s : State) (nbits w : Nat) : State :=
  let w := w % 2 ^ nbits
  let pc := if s.loadable s.cpu.regs.pc then s.cpu.regs.pc else 0
  let c := { s.cpu with pendingReset := false, pendingNmi := false, irqLine := false, resetLine := false,
                        t := 1, deferred := .none, intKind := .none }
  let s := { s with cpu := c.setPc pc, fault := none, dma := { s.dma with active := false } }
  ((s.loadByte pc (tableByte w 0)).loadByte (pc + 1) (tableByte w 1)).loadByte (pc + 2) (tableByte w 2)

end Sys2Proof.Machine
end

