-- ==== Sys2Proof/Safety.lean ====
section
/-! DEFINITION. The terms the statements use: which accesses complete, when an instruction can run, what an instruction
leaves alone, and the invariant of the machine. -/

namespace Sys2Proof.Machine

/-! ## Accesses that complete -/

/-- A read of `a` completes: not in 0x4018..0x5FFF, and not in 0x6000..0x7FFF without PRG-RAM (rules R95, R102). -/
def State.readable (s : State) (a : Word) : Bool :=
  match cpuTarget a with
  | .reserved | .hole => false
  | .prgRam _ => decide (s.cart.prgRamLen ≠ 0)
  | _ => true

/-- A write of `a` completes whatever the state: RAM, PRG-RAM, the APU, the controller port, and the PPU registers that
cannot make the PPU fault (2 to 6). Writes of PPUCTRL, PPUMASK, PPUDATA and 0x4014 have clauses of their own in the
statements StoresToDevices and PpuDataWrite. -/
def State.writable (s : State) (a : Word) : Bool :=
  match cpuTarget a with
  | .ram _ | .apu _ | .apuStatus | .pad1 | .pad2 => true
  | .prgRam _ => decide (s.cart.prgRamLen ≠ 0)
  | .ppu r => decide (2 ≤ r.toNat) && decide (r.toNat ≤ 6)
  | _ => false

/-- The memory cell an address selects, mirrors folded (rules R87, R101). -/
def State.cellOf (s : State) (a : Word) : Target :=
  match cpuTarget a with
  | .prgRam k => .prgRam (k % s.cart.prgRamLen)
  | .prgRom k => .prgRom (k % s.cart.prgRomLen)
  | d => d

/-- The PPU cannot fault by itself: CHR-ROM covers the pattern tables (R104), no register access is waiting, and no
8×16 sprite can be fetched (R368). -/
def State.PpuSafe (s : State) : Prop :=
  0x2000 ≤ s.cart.chrRomLen ∧ s.ppu.access = false ∧
    (s.ppu.ctrl.spriteHeight16 = false ∨ s.ppu.renderingEnabled = false)

/-- The CPU's cycles reach the bus: no DMA holds it (R495), and the PPU does not fault by itself. -/
def State.BusReady (s : State) : Prop := s.dma.active = false ∧ s.PpuSafe

/-- A meaning can run: the bus is ready, and no action of an earlier instruction is left over (R183). -/
def State.CanRun (s : State) : Prop := s.BusReady ∧ s.cpu.deferred = .none

/-- The instruction boundary of rule R184, between (a) and (b) of the T1 step, with nothing else in the way. -/
def State.AtBoundary (s : State) : Prop :=
  s.cpu.t = 1 ∧ s.cpu.deferred = .none ∧ s.cpu.resetLine = false ∧ s.fault = none ∧ s.dma.active = false

/-- No interrupt is pending at the poll (rule R184 b). -/
def State.NoInterrupt (s : State) : Prop :=
  s.cpu.pendingReset = false ∧ s.cpu.pendingNmi = false ∧ (s.cpu.irqLine = false ∨ s.cpu.regs.p.i = true)

/-- The bytes of memory from PC on (RAM, PRG-RAM or PRG-ROM) are `bs`. -/
def State.CodeAt (s : State) (bs : List Byte) : Prop :=
  ∀ k (h : k < bs.length), s.peek (s.cpu.regs.pc + BitVec.ofNat 16 k) = some bs[k]

/-- Reading `a` on the bus `n` times over: the bytes, oldest first, and the state after. -/
def State.readTimes (a : Word) : Nat → State → Except Fault (List Byte × State)
  | 0, s => .ok ([], s)
  | n + 1, s =>
    match s.busRead a with
    | .error f => .error f
    | .ok (v, s) =>
      match State.readTimes a n s with
      | .error f => .error f
      | .ok (vs, s) => .ok (v :: vs, s)

/-- `n` dots of the PPU, with their VRAM accesses served (rule R490, tick step 3). -/
def State.dots : Nat → State → Run
  | 0, s => .ok s
  | n + 1, s => andThen s.ppuStep (State.dots n)

/-- The operand of a read-and-use form is the byte `m` of memory (RAM, PRG-RAM or PRG-ROM) or the immediate byte, and the
dummy read on the way completes. -/
def State.Operates (s : State) (o : Operand) (m : Byte) : Prop :=
  match o with
  | .imm b => m = b
  | _ => (∃ a, o.address s = some a ∧ s.peek a = some m) ∧ ∀ d, o.dummyRead true s = some d → s.readable d = true

/-! ## What an instruction leaves alone -/

/-- Every byte of RAM, PRG-RAM and PRG-ROM, read through the CPU's address map, except those in the cells of `stored`. -/
def SameBytesExcept (stored : List Target) (s t : State) : Prop :=
  ∀ a : Word, s.cellOf a ∉ stored → t.peek a = s.peek a

/-- The PPU registers that nothing but a register write changes: PPUCTRL, PPUMASK, OAMADDR, `t` and fine X (rules R34,
R35, R347 to R353). -/
def Ppu.written (p : Ppu) : PpuCtrl × PpuMask × Byte × BitVec 15 × BitVec 3 := (p.ctrl, p.mask, p.oamAddr, p.t, p.fineX)

/-- The state that an instruction that writes no device register leaves alone: the memories behind the PPU and its
write-only registers, the cartridge, the fault, the DMA engine, the pending reset and the RESET input. -/
structure Untouched (s t : State) : Prop where
  vram : t.vram = s.vram
  oam : t.ppu.oam = s.ppu.oam
  palette : t.ppu.palette = s.ppu.palette
  written : t.ppu.written = s.ppu.written
  cart : t.cart = s.cart
  fault : t.fault = s.fault
  dma : t.dma = s.dma
  pendingReset : t.cpu.pendingReset = s.cpu.pendingReset
  resetLine : t.cpu.resetLine = s.cpu.resetLine

/-- The stack cell at offset `k` from an S value. -/
def stackCell (s k : Byte) : Target := cpuTarget (stackAddr (s - k))

/-! ## The invariant -/

/-- Every memory is in canonical form and within its size (rules R33, R36, R39). -/
structure MemoriesOk (s : State) : Prop where
  ram : s.ram.wfSize 2048 = true
  prgRam : s.prgRam.wfSize s.cart.prgRamLen = true
  vram : s.vram.wfSize 2048 = true
  prgRom : s.cart.prgRom.wfSize s.cart.prgRomLen = true
  chrRom : s.cart.chrRom.wfSize s.cart.chrRomLen = true
  oam : s.ppu.oam.wfSize 256 = true
  secOam : s.ppu.secOam.wfSize 32 = true
  palette : s.ppu.palette.wfSize 32 = true
  frameBuffer : s.ppu.frameBuffer.wfSize 61440 = true

/-- Every counter is within the range the spec gives it (rules R31, R36, R38, R39, R41, R44). -/
structure CountersOk (s : State) : Prop where
  scanline : s.ppu.scanline ≤ 261
  dot : s.ppu.dot ≤ 340
  secCount : s.ppu.secCount ≤ 8
  slots : s.ppu.slots.length = 8
  sprite0 : s.ppu.sprite0Hit = false
  frameCount : s.apu.count < 37282
  dmaPending : s.dma.pending ≤ 514
  sampleCycles : s.apu.sample.cycles < max 1 (Config.samplePeriod s.apu.params.outputRate)
  history : s.apu.sample.history.length = Config.firTaps
  lastIndex : s.apu.sample.lastIndex < Config.firTaps
  writePos : s.apu.sample.writePos < Config.ringLen
  ring : Cells.wfFrom 0 0 s.apu.sample.ring = true

/-- The invariant every step keeps. -/
def State.Inv (s : State) : Prop := MemoriesOk s ∧ CountersOk s

/-- The cycle the CPU is in exists: T is 1 or 2, or a row of the cycle table of `ir` (rule R180). -/
def Cpu.CycleOk (c : Cpu) : Prop :=
  c.t = 1 ∨ c.t = 2 ∨ ∃ rows, opcodeTable c.ir = some rows ∧ 2 < c.t ∧ c.t - 2 < rows.length

/-- The PPU's raster position, 0 to 89341 (rules R39, R392). -/
def Ppu.position (p : Ppu) : Nat := p.scanline * 341 + p.dot

end Sys2Proof.Machine
end

