-- ==== Sys2Proof/Certificates/Slice0/Obligations.lean ====
section
/-! DEFINITION. The statements for the provers. Each docstring says which rule of spec/ it formalises. -/

open Sys2Proof Sys2Proof.Machine

/-! ## Encoding -/

/-- Words written out from the table of rule R150 and the layouts of rule R141 decode to their instructions, one or more
of every shape of the glossary. The opcode numbers and their modes are the spec's decisions D2 and D4 (log 12). -/
def Obligations.TableWordsDecode : Prop :=
  decode [0b10101001, 0b01000010] = .ok (.ldaImm 0b01000010, []) ∧
  decode [0b10001101, 0b00000000, 0b00000010] = .ok (.staAbs 0b0000001000000000, []) ∧
  decode [0b11111110, 0b11111111, 0b00000010] = .ok (.incAbx 0b0000001011111111, []) ∧
  decode [0b01001010] = .ok (.lsrAcc, []) ∧
  decode [0b11101000] = .ok (.inx, []) ∧
  decode [0b11010000, 0b11111110] = .ok (.bne (-2), []) ∧
  decode [0b00010000, 0b10000000] = .ok (.bpl (-128), []) ∧
  decode [0b01101100, 0b11111111, 0b00010010] = .ok (.jmpInd 0b0001001011111111, []) ∧
  decode [0b00100000, 0b01111000, 0b00000110] = .ok (.jsr 0b0000011001111000, []) ∧
  decode [0b01001000] = .ok (.pha, []) ∧
  decode [0b00101000] = .ok (.plp, []) ∧
  decode [0b01100000] = .ok (.rts, []) ∧
  decode [0b00000000] = .ok (.brk, []) ∧
  decode [0b01000000] = .ok (.rti, [])

/-- Decoding the words of a well-formed instruction gives it back, with every operand, and leaves the bytes after it
(rules R140, R141, R150). -/
def Obligations.DecodeAfterEncode : Prop :=
  ∀ (i : Instr) (rest : List Byte), i.wellFormed = true → decode (encode i ++ rest) = .ok (i, rest)

/-- Every word has one meaning: bytes that decode are the words of the instruction they decode to, which is well-formed
(rules R140, R141, R150). -/
def Obligations.EncodeAfterDecode : Prop :=
  ∀ (bs rest : List Byte) (i : Instr), decode bs = .ok (i, rest) → i.wellFormed = true ∧ bs = encode i ++ rest

/-! ## The step -/

/-- A step at the boundary, with no interrupt pending, runs the instruction whose bytes stand at PC: the fetch reads its
bytes (JSR's third is read later, by its meaning), changes no memory and no register but PC, and takes one cycle a byte;
then the instruction's meaning runs; then any OAM DMA it started (rules R184, R201, R495; log 5). -/
def Obligations.StepRunsTheDecodedInstruction : Prop :=
  ∀ (s : State) (bs : List Byte) (i : Instr), s.AtBoundary → s.PpuSafe → s.NoInterrupt → s.CodeAt bs →
    decode bs = .ok (i, []) →
    ∃ u, step s = Result.finish (exec i u) ∧
      u.cpu.regs = { s.cpu.regs with pc := s.cpu.regs.pc + BitVec.ofNat 16 (1 + fetchCount i) } ∧
      (∀ a, u.peek a = s.peek a) ∧ Untouched s u ∧ u.cyc = s.cyc + 1 + fetchCount i ∧ u.CanRun

/-- The opcode bytes that are no instruction, whatever follows them, are the 105 of rule R152, and one of them at PC
stops the machine, with the byte and its address (rules R152, R185, R581). Which bytes are the 105 is the complement of
the opcode numbers, which are the spec's decisions D2 and D4, general knowledge (log 12). -/
def Obligations.IllegalOpcodesStop : Prop :=
  (∀ op b1 b2 : Byte, opcodeRow op b1 b2 = none ↔ op ∈
    ([0x02, 0x03, 0x04, 0x07, 0x0B, 0x0C, 0x0F, 0x12, 0x13, 0x14, 0x17, 0x1A, 0x1B, 0x1C, 0x1F, 0x22] ++
     [0x23, 0x27, 0x2B, 0x2F, 0x32, 0x33, 0x34, 0x37, 0x3A, 0x3B, 0x3C, 0x3F, 0x42, 0x43, 0x44, 0x47] ++
     [0x4B, 0x4F, 0x52, 0x53, 0x54, 0x57, 0x5A, 0x5B, 0x5C, 0x5F, 0x62, 0x63, 0x64, 0x67, 0x6B, 0x6F] ++
     [0x72, 0x73, 0x74, 0x77, 0x7A, 0x7B, 0x7C, 0x7F, 0x80, 0x82, 0x83, 0x87, 0x89, 0x8B, 0x8F, 0x92] ++
     [0x93, 0x97, 0x9B, 0x9C, 0x9E, 0x9F, 0xA3, 0xA7, 0xAB, 0xAF, 0xB2, 0xB3, 0xB7, 0xBB, 0xBF, 0xC2] ++
     [0xC3, 0xC7, 0xCB, 0xCF, 0xD2, 0xD3, 0xD4, 0xD7, 0xDA, 0xDB, 0xDC, 0xDF, 0xE2, 0xE3, 0xE7, 0xEB] ++
     [0xEF, 0xF2, 0xF3, 0xF4, 0xF7, 0xFA, 0xFB, 0xFC, 0xFF] : List Byte)) ∧
  ∀ (s : State) (op : Byte), s.AtBoundary → s.PpuSafe → s.NoInterrupt → s.CodeAt [op] →
    opcodeRow op 0 0 = none → step s = .fault (.illegalOpcode op s.cpu.regs.pc)

/-- A fault is final: a state that holds one answers it again, as a step and as a tick, and gives no further state. That
a fault is the outcome, with no state beside it, is the model's reading of rule R520 (log 14, DEDUCED). -/
def Obligations.FaultIsFinal : Prop :=
  ∀ (s : State) (f : Fault), s.fault = some f → step s = .fault f ∧ s.tick = .error f

/-- An instruction step is the system ticks of rule R490, one after another, up to the next boundary, the first tick
count above 0 at which the CPU stands at T = 1 with no DMA active: it answers the state that those ticks reach, with the
deferred action run, or the fault that they reach; it never refuses (rules R180, R183, R201, R490, R495; that a step
ends there is log 5, DEDUCED). The rows of an instruction are the same in both; the two ways of running them, and of
holding the operand (log 6), are compared. -/
def Obligations.StepIsTicks : Prop :=
  ∀ s : State, s.AtBoundary →
    match step s with
    | .next t => ∃ n u, 0 < n ∧ State.ticks n s = .ok u ∧ u.commit = t ∧ u.cpu.t = 1 ∧ u.dma.active = false ∧
        ∀ m v, 0 < m → m < n → State.ticks m s = .ok v → v.cpu.t ≠ 1 ∨ v.dma.active = true
    | .fault f => ∃ n, State.ticks n s = .error f
    | .refused _ => False

/-- The cycle the CPU is in always exists: a tick keeps it so, and never raises the model's own fault (rule R180; log
13). -/
def Obligations.EveryCycleExists : Prop :=
  ∀ s : State, s.cpu.CycleOk → s.fault = none →
    (∀ t, s.tick = .ok t → t.cpu.CycleOk) ∧ ∀ op n, s.tick ≠ .error (.noSuchCycle op n)

/-- The first step after construct is the reset sequence: for every cartridge, power-on record and audio parameters, PC
from 0xFFFC and 0xFFFD, S three less, I set, every other register and every byte of RAM as at power-on, seven ticks
(rules R530, R572; that I is set rests on the decision D12 of the spec). -/
def Obligations.FirstStepIsTheResetSequence : Prop :=
  ∀ (cart : Cartridge) (po : PowerOn) (audio : AudioParams), 0x2000 ≤ cart.chrRomLen →
    (State.powerOn cart po audio).readable po.pc = true →
    ∃ t l h, step (State.powerOn cart po audio) = .next t ∧
      (State.powerOn cart po audio).peek 0xFFFC = some l ∧ (State.powerOn cart po audio).peek 0xFFFD = some h ∧
      t.cpu.regs = ⟨po.a, po.x, po.y, po.s - 3, joinBytes h l, { po.p with i := true }⟩ ∧
      t.cpu.pendingReset = false ∧ t.ram = po.ram ∧ t.prgRam = po.prgRam ∧ t.cyc = 7

/-- An NMI, and an IRQ that is not masked, is taken at the boundary: the address of the instruction not executed, high
byte first, and the status with bit 5 set and bit 4 clear go on the stack; I is set; PC is the vector; nothing else of
the registers and no other byte of memory changes; seven ticks. NMI goes before IRQ (rules R528, R530, R531; that I is
set rests on the decision D12 of the spec). -/
def Obligations.InterruptSequence : Prop :=
  ∀ (s : State) (v : Word), s.AtBoundary → s.PpuSafe → MemoriesOk s → s.readable s.cpu.regs.pc = true →
    s.cpu.pendingReset = false →
    (s.cpu.pendingNmi = true ∧ v = 0xFFFA ∨
      s.cpu.pendingNmi = false ∧ s.cpu.irqLine = true ∧ s.cpu.regs.p.i = false ∧ v = 0xFFFE) →
    ∃ t l h, step s = .next t ∧ s.peek v = some l ∧ s.peek (v + 1) = some h ∧
      t.cpu.regs = { s.cpu.regs with s := s.cpu.regs.s - 3, pc := joinBytes h l, p := { s.cpu.regs.p with i := true } } ∧
      t.peek (stackAddr s.cpu.regs.s) = some (hiByte s.cpu.regs.pc) ∧
      t.peek (stackAddr (s.cpu.regs.s - 1)) = some (loByte s.cpu.regs.pc) ∧
      t.peek (stackAddr (s.cpu.regs.s - 2)) = some (s.cpu.regs.p.toByte false) ∧
      SameBytesExcept [stackCell s.cpu.regs.s 0, stackCell s.cpu.regs.s 1, stackCell s.cpu.regs.s 2] s t ∧
      Untouched s t ∧ t.cyc = s.cyc + 7

/-- While RESET is asserted a step is one tick: the instruction in progress is abandoned, the registers and memory keep
their values, and the tick is the T1 cycle that injects the reset sequence (rule R186; log 15). -/
def Obligations.ResetLineAbandonsTheInstruction : Prop :=
  ∀ s : State, s.fault = none → s.dma.active = false → s.PpuSafe → s.cpu.resetLine = true →
    s.readable s.cpu.regs.pc = true →
    ∃ t, step s = .next t ∧ t.cpu.regs = s.cpu.regs ∧ t.cpu.intKind = .reset ∧ t.cpu.t = 2 ∧
      t.cpu.deferred = .none ∧ t.cpu.pendingReset = false ∧ t.cpu.sync = true ∧ (∀ a, t.peek a = s.peek a) ∧
      t.cyc = s.cyc + 1

/-! ## Read-and-use instructions -/

/-- ADC AND BIT CMP CPX CPY EOR LDA LDX LDY ORA SBC, every form with an address, whatever device answers: the
instruction completes; its operation is applied to the byte that the final read of the effective address put on `db`,
the byte of memory there if it is memory; registers and flags the operation does not name, every byte of memory and the
special registers are unchanged; the cycles are those of rule R200, with the page-cross cycle elided (rules R191 to
R196, R230). -/
def Obligations.ReadUseInstructions : Prop :=
  ∀ (i : Instr) (op : ReadOp) (o : Operand) (s : State) (a : Word), formOf i = .readUse op o → s.CanRun →
    o.address s = some a → s.readable a = true → (∀ d, o.dummyRead true s = some d → s.readable d = true) →
    ∃ t, exec i s = .next t ∧ t.cpu.regs = op.run t.cpu.db s.cpu.regs ∧ (∀ v, s.peek a = some v → t.cpu.db = v) ∧
      (∀ b, t.peek b = s.peek b) ∧ Untouched s t ∧ t.cpu.t = 1 ∧ t.cpu.deferred = .none ∧
      t.cyc = s.cyc + o.cycles true s

/-- The immediate forms of the same instructions: the operation on the operand byte, no further cycle (rules R190,
R230). -/
def Obligations.ReadUseImmediate : Prop :=
  ∀ (i : Instr) (op : ReadOp) (b : Byte) (s : State), formOf i = .readUse op (.imm b) →
    ∃ t, exec i s = .next t ∧ t.cpu.regs = op.run b s.cpu.regs ∧ (∀ a, t.peek a = s.peek a) ∧ Untouched s t ∧
      t.cpu.t = 1 ∧ t.cpu.deferred = .none ∧ t.cyc = s.cyc

/-- ADC, every form: A is the low eight bits of A + M + C, C is bit 8 of the sum, V the signed overflow, N and Z from A;
D is ignored, and nothing else of the registers changes (rule R231). -/
def Obligations.AddWithCarry : Prop :=
  ∀ (i : Instr) (o : Operand) (s : State) (m : Byte), formOf i = .readUse .adc o → s.CanRun → s.Operates o m →
    ∃ t r sum, exec i s = .next t ∧ s.cpu.regs = r ∧ sum = r.a.toNat + m.toNat + r.p.c.toNat ∧
      t.cpu.regs = { r with
        a := BitVec.ofNat 8 sum
        p := { r.p with
          c := decide (256 ≤ sum)
          v := decide (r.a.toInt + m.toInt + r.p.c.toNat < -128 ∨ 127 < r.a.toInt + m.toInt + r.p.c.toNat)
          n := decide (128 ≤ sum % 256)
          z := decide (sum % 256 = 0) } }

/-- SBC, every form: A is A − M − (1 − C) modulo 256, C is 1 iff no borrow occurred, V the signed overflow of the
subtraction, N and Z from A; D is ignored, and nothing else of the registers changes (rule R241). -/
def Obligations.SubtractWithCarry : Prop :=
  ∀ (i : Instr) (o : Operand) (s : State) (m : Byte), formOf i = .readUse .sbc o → s.CanRun → s.Operates o m →
    ∃ t r borrow, exec i s = .next t ∧ s.cpu.regs = r ∧ borrow = (!r.p.c).toNat ∧
      t.cpu.regs = { r with
        a := r.a - m - BitVec.ofNat 8 borrow
        p := { r.p with
          c := decide (m.toNat + borrow ≤ r.a.toNat)
          v := decide (r.a.toInt - m.toInt - borrow < -128 ∨ 127 < r.a.toInt - m.toInt - borrow)
          n := (r.a - m - BitVec.ofNat 8 borrow).msb
          z := decide (r.a - m - BitVec.ofNat 8 borrow = 0) } }

/-- CMP, CPX and CPY, every form: C is 1 iff the register is at least the memory byte, N and Z are those of the low
eight bits of their difference; the register and the other flags are unchanged (rules R233, R234, R235). -/
def Obligations.Compares : Prop :=
  ∀ (i : Instr) (op : ReadOp) (o : Operand) (s : State) (m reg : Byte), formOf i = .readUse op o → s.CanRun →
    s.Operates o m →
    (op = .cmp ∧ reg = s.cpu.regs.a ∨ op = .cpx ∧ reg = s.cpu.regs.x ∨ op = .cpy ∧ reg = s.cpu.regs.y) →
    ∃ t, exec i s = .next t ∧
      t.cpu.regs = { s.cpu.regs with
        p := { s.cpu.regs.p with
          c := decide (m.toNat ≤ reg.toNat), n := (reg - m).getLsbD 7, z := decide (reg = m) } }

/-- BIT, both forms: N is bit 7 and V bit 6 of the memory byte, Z tells whether A and the byte share no bit; A and the
other flags are unchanged (rule R242). -/
def Obligations.BitTest : Prop :=
  ∀ (i : Instr) (o : Operand) (s : State) (m : Byte), formOf i = .readUse .bit o → s.CanRun → s.Operates o m →
    ∃ t, exec i s = .next t ∧
      t.cpu.regs = { s.cpu.regs with
        p := { s.cpu.regs.p with n := m.getLsbD 7, v := m.getLsbD 6, z := decide (s.cpu.regs.a &&& m = 0) } }

/-- AND, EOR and ORA, every form: A combined bit by bit with the operand; LDA, LDX and LDY, every form: the register
takes the operand. N and Z follow the new value, nothing else of the registers changes (rules R232, R236 to R240; the
spec marks the operations and flags as general knowledge, G9; log 12). -/
def Obligations.LogicOperationsAndLoads : Prop :=
  ∀ (i : Instr) (op : ReadOp) (o : Operand) (s : State) (m : Byte), formOf i = .readUse op o → s.CanRun →
    s.Operates o m →
    (op = .and ∨ op = .eor ∨ op = .ora →
      ∃ t r, exec i s = .next t ∧
        (∀ k, k < 8 → r.getLsbD k = match op with
          | .and => s.cpu.regs.a.getLsbD k && m.getLsbD k
          | .eor => xor (s.cpu.regs.a.getLsbD k) (m.getLsbD k)
          | _ => s.cpu.regs.a.getLsbD k || m.getLsbD k) ∧
        t.cpu.regs = { s.cpu.regs with
          a := r, p := { s.cpu.regs.p with n := r.getLsbD 7, z := decide (r = 0) } }) ∧
    let p := { s.cpu.regs.p with n := m.getLsbD 7, z := decide (m = 0) }
    (op = .lda → ∃ t, exec i s = .next t ∧ t.cpu.regs = { s.cpu.regs with a := m, p := p }) ∧
    (op = .ldx → ∃ t, exec i s = .next t ∧ t.cpu.regs = { s.cpu.regs with x := m, p := p }) ∧
    (op = .ldy → ∃ t, exec i s = .next t ∧ t.cpu.regs = { s.cpu.regs with y := m, p := p })

/-- A read-and-use instruction in its absolute form on a device register uses the byte the device gives at that read,
and the read has its side effect. 0x4015: the status byte, and the frame interrupt is cleared before the APU's step of
the same tick. 0x4016 and 0x4017: the port's lowest bit, and the port shifts. PPUSTATUS: the status byte, and the write
toggle is cleared. OAMDATA: the byte at OAMADDR. PPUDATA with rendering off: the buffered byte below 0x3F00, else the
palette byte, and `v` moves. The PPU's write-only registers (0, 1, 3, 5, 6), at every mirror: the byte last written to or
read from a PPU register, which stays, and no side effect. The addresses that select no device: a free byte (rules R89,
R92, R94, R96, R230, R349, R351, R355, R356, R462, R503; the free byte is log 7 and the spec's decision D19, the PPU's
register numbers and status bits D23 and D24, the shape of the port's byte D45, the unlisted status bits D33 and D50, the
palette index and the wrap of `v` D34 and D64). -/
def Obligations.LoadsFromDevices : Prop :=
  ∀ (i : Instr) (op : ReadOp) (s : State) (a : Word), formOf i = .readUse op (.abs a) → s.CanRun →
    let uses := fun (v : Byte) (after : State → Prop) => ∃ t, exec i s = .next t ∧ t.cpu.regs = op.run v s.cpu.regs ∧ after t
    let buffered := if s.ppu.fillPending then s.ppu.vramData else s.ppu.dataBuffer
    (a = 0x4015 → uses s.apu.status fun t => t.apu = ({ s.apu with frameIrq := false } : Apu).step) ∧
    (a = 0x4016 → uses (BitVec.ofNat 8 (s.ctl.sr1.toNat % 2)) fun t =>
      t.ctl = { s.ctl with sr1 := BitVec.ofNat 8 (s.ctl.sr1.toNat / 2) }) ∧
    (a = 0x4017 → uses (BitVec.ofNat 8 (s.ctl.sr2.toNat % 2)) fun t =>
      t.ctl = { s.ctl with sr2 := BitVec.ofNat 8 (s.ctl.sr2.toNat / 2) }) ∧
    (cpuTarget a = .ppu 2 →
      uses (BitVec.ofNat 8 (128 * s.ppu.vblankStarted.toNat + 64 * s.ppu.sprite0Hit.toNat + 32 * s.ppu.spriteOverflow.toNat))
        fun t => t.ppu.w = false) ∧
    (cpuTarget a = .ppu 4 → uses (s.ppu.oam.read s.ppu.oamAddr.toNat) fun t => t.ppu.oamAddr = s.ppu.oamAddr) ∧
    (cpuTarget a = .ppu 7 → s.ppu.renderingEnabled = false →
      uses (if s.ppu.dataAddr.toNat < 0x3F00 then buffered else s.ppu.palette.read (s.ppu.dataAddr.toNat % 32))
        fun t => t.ppu.v = s.ppu.v + (if s.ppu.ctrl.vramIncrement then 32 else 1)) ∧
    (∀ k, k ∈ ([0, 1, 3, 5, 6] : List (BitVec 3)) → cpuTarget a = .ppu k →
      uses s.ppu.cpuData fun t => t.ppu.cpuData = s.ppu.cpuData ∧ t.ppu.written = s.ppu.written ∧ t.ppu.w = s.ppu.w ∧
        t.ppu.oam = s.ppu.oam ∧ t.ppu.palette = s.ppu.palette ∧ t.vram = s.vram ∧
        (s.ppu.renderingEnabled = false → t.ppu.v = s.ppu.v)) ∧
    (0x4000 ≤ a.toNat → a.toNat ≤ 0x4014 → uses (Config.openBus s.cyc) fun t => t.apu = s.apu.step ∧ t.ctl = s.ctl)

/-! ## Stores -/

/-- STA, STX and STY, every form, to every address a write of which completes: the register is stored at the effective
address, read back at every mirror of it when it is memory; no register, no flag and no other byte changes; outside the
PPU window the special registers are unchanged too; the page-cross cycle is never elided (rules R191 to R196, R250 to
R253). -/
def Obligations.StoreInstructions : Prop :=
  ∀ (i : Instr) (r : StoreReg) (o : Operand) (s : State) (a : Word), formOf i = .store r o → s.CanRun → MemoriesOk s →
    o.address s = some a → s.writable a = true → (∀ d, o.dummyRead false s = some d → s.readable d = true) →
    ∃ t v, exec i s = .next t ∧
      v = (match r with | .a => s.cpu.regs.a | .x => s.cpu.regs.x | .y => s.cpu.regs.y) ∧
      t.cpu.regs = s.cpu.regs ∧
      ((s.peek a).isSome = true → ∀ b, s.cellOf b = s.cellOf a → t.peek b = some v) ∧
      SameBytesExcept [s.cellOf a] s t ∧ ((∀ k, cpuTarget a ≠ .ppu k) → Untouched s t) ∧
      t.cyc = s.cyc + o.cycles false s

/-- A store to a device register, in the absolute forms, at every mirror; no register and no byte of memory changes.
PPUCTRL and PPUMASK take the byte's bits (where no 8×16 sprite can then be fetched, rule R368), PPUCTRL's two low bits
also the nametable bits of `t`; PPUSTATUS takes nothing; OAMADDR takes the byte; PPUSCROLL and PPUADDR make the write of
TwoWriteRegisters; none of these changes another register of the PPU, OAM, palette RAM or VRAM. OAMDATA: the byte lies in
OAM where OAMADDR pointed, OAMADDR is one more, every other OAM byte is unchanged. PPUDATA, with rendering off: the byte
goes where `v` points, and `v` moves, or the store stops below 0x2000. 0x4014: the DMA engine is active from the next
tick on, for the page of the byte, for 513 cycles after an even one and 514 after an odd one. 0x4000 to 0x4013, 0x4015
and 0x4017: the write of the APU register file, before the APU's step of the same tick; 0x4016: the controller latch
(rules R88, R90, R91, R93, R94, R105, R250, R342, R343, R346 to R348, R350 to R354, R356, R421, R494, R502; the PPU's
register numbers and bit layouts are the spec's decisions D23 and D24, the store to PPUSTATUS D62, the palette index and
the wrap of `v` D34 and D64, the APU's registers D36 (log 12), and the even and odd cycles are counted by D17). -/
def Obligations.StoresToDevices : Prop :=
  ∀ (i : Instr) (r : StoreReg) (s : State) (a : Word), formOf i = .store r (.abs a) → s.CanRun → MemoriesOk s →
    let v := r.value s.cpu.regs
    let p := s.ppu
    let takes := fun after : State → Prop =>
      ∃ t, exec i s = .next t ∧ t.cpu.regs = s.cpu.regs ∧ (∀ b, t.peek b = s.peek b) ∧ after t
    let sets := fun (written : PpuCtrl × PpuMask × Byte × BitVec 15 × BitVec 3) (w : Bool) (after : State → Prop) =>
      takes fun t => t.ppu.written = written ∧ t.ppu.w = w ∧ t.ppu.cpuData = v ∧ t.ppu.oam = p.oam ∧
        t.ppu.palette = p.palette ∧ t.vram = s.vram ∧ after t
    (cpuTarget a = .ppu 0 → v.getLsbD 5 = false ∨ p.renderingEnabled = false →
      sets ({ nametableSelect := v.extractLsb' 0 2, vramIncrement := v.getLsbD 2, sprPtBase := v.getLsbD 3,
              bgPtBase := v.getLsbD 4, spriteHeight16 := v.getLsbD 5, generateVblankNmi := v.getLsbD 7 },
        p.mask, p.oamAddr, joinScroll (fineY p.t) (v.extractLsb' 0 2) (coarseY p.t) (coarseX p.t), p.fineX) p.w
        fun _ => True) ∧
    (cpuTarget a = .ppu 1 → p.ctrl.spriteHeight16 = false ∨ v.getLsbD 3 = false ∧ v.getLsbD 4 = false →
      sets (p.ctrl, { greyscale := v.getLsbD 0, showBgLeft := v.getLsbD 1, showSprLeft := v.getLsbD 2,
                      showBackground := v.getLsbD 3, showSprites := v.getLsbD 4, emphasis := v.extractLsb' 5 3 },
        p.oamAddr, p.t, p.fineX) p.w fun _ => True) ∧
    (cpuTarget a = .ppu 2 → sets p.written p.w fun t => p.renderingEnabled = false → t.ppu.v = p.v) ∧
    (cpuTarget a = .ppu 3 →
      sets (p.ctrl, p.mask, v, p.t, p.fineX) p.w fun t => p.renderingEnabled = false → t.ppu.v = p.v) ∧
    (cpuTarget a = .ppu 4 →
      takes fun t => t.ppu.oam.read p.oamAddr.toNat = v ∧ t.ppu.oamAddr = p.oamAddr + 1 ∧
        ∀ k, k ≠ p.oamAddr.toNat → t.ppu.oam.read k = p.oam.read k) ∧
    (cpuTarget a = .ppu 5 →
      sets (p.ctrl, p.mask, p.oamAddr, (p.writeScroll v).t, (p.writeScroll v).fineX) (!p.w)
        fun t => p.renderingEnabled = false → t.ppu.v = p.v) ∧
    (cpuTarget a = .ppu 6 →
      sets (p.ctrl, p.mask, p.oamAddr, (p.writeAddr v).t, p.fineX) (!p.w)
        fun t => p.renderingEnabled = false → t.ppu.v = if p.w then (p.writeAddr v).t else p.v) ∧
    (cpuTarget a = .ppu 7 → p.renderingEnabled = false →
      let moved := p.v + (if p.ctrl.vramIncrement then 32 else 1)
      (p.dataAddr.toNat < 0x2000 → exec i s = .fault (.chrWrite p.dataAddr)) ∧
      (0x2000 ≤ p.dataAddr.toNat → p.dataAddr.toNat < 0x3F00 → takes fun t => t.ppu.v = moved ∧
        t.vram = s.vram.write (vramIndex s.cart.mirroring p.dataAddr) v ∧ t.ppu.palette = p.palette) ∧
      (0x3F00 ≤ p.dataAddr.toNat → takes fun t => t.ppu.v = moved ∧
        t.ppu.palette = p.palette.write (p.dataAddr.toNat % 32) v ∧ t.vram = s.vram)) ∧
    (a = 0x4014 →
      takes fun t => t.cpu.ab = 0x4014 ∧ t.cyc = s.cyc + 1 ∧
        t.dma = { s.dma with page := v, active := true, align := decide (s.cyc % 2 = 0),
                             pending := if s.cyc % 2 = 0 then 513 else 514 }) ∧
    (0x4000 ≤ a.toNat → a.toNat ≤ 0x4017 → a ≠ 0x4014 → a ≠ 0x4016 →
      takes fun t => t.apu = (s.apu.write (a.toNat - 0x4000) v).step ∧ t.ctl = s.ctl ∧ t.dma = s.dma) ∧
    (a = 0x4016 → takes fun t => t.ctl = s.ctl.writeLatch v ∧ t.apu = s.apu.step ∧ t.dma = s.dma)

/-! ## Read-modify-write instructions -/

/-- ASL LSR ROL ROR INC DEC on memory, every form, at every address that can be read and written: the byte read is held
in `m`, the old value is written back and then the new one, as a device that takes both shows (at OAMDATA the old byte
and then the new one land in OAM, and OAMADDR moves by two); the flags are the operation's; memory holds the new value
at every mirror of the address; no other register, byte or special register changes; two cycles more than the walk,
which is never elided (rules R191 to R194, R260, R351; that the old value is written first is the spec's decision D8,
OAMDATA's number D23; log 12). PPUCTRL, PPUMASK, PPUDATA and 0x4014 are left out. -/
def Obligations.ReadModifyWriteMemory : Prop :=
  ∀ (i : Instr) (op : RmwOp) (o : Operand) (s : State) (a : Word), formOf i = .rmw op o → s.CanRun → MemoriesOk s →
    o.address s = some a → s.readable a = true → s.writable a = true →
    (∀ d, o.dummyRead false s = some d → s.readable d = true) →
    ∃ t, exec i s = .next t ∧ t.cpu.regs = { s.cpu.regs with p := (op.run t.cpu.m s.cpu.regs.p).2 } ∧
      t.cpu.db = (op.run t.cpu.m s.cpu.regs.p).1 ∧
      (∀ v, s.peek a = some v → t.cpu.m = v ∧
        ∀ b, s.cellOf b = s.cellOf a → t.peek b = some (op.run v s.cpu.regs.p).1) ∧
      (cpuTarget a = .ppu 4 → t.cpu.m = s.ppu.oam.read s.ppu.oamAddr.toNat ∧
        t.ppu.oam.read s.ppu.oamAddr.toNat = t.cpu.m ∧
        t.ppu.oam.read (s.ppu.oamAddr + 1).toNat = (op.run t.cpu.m s.cpu.regs.p).1 ∧
        t.ppu.oamAddr = s.ppu.oamAddr + 2) ∧
      SameBytesExcept [s.cellOf a] s t ∧ ((∀ k, cpuTarget a ≠ .ppu k) → Untouched s t) ∧
      t.cyc = s.cyc + o.cycles false s + 2

/-- An instruction whose operand cannot be accessed stops by name, every form: a read of the reserved addresses and of
the holes, a store there or to PRG-ROM, a read-modify-write at its read there, and of PRG-ROM at its first write (rules
R95, R102, R103, R230, R250, R260; the PRG-ROM and hole faults rest on the decision D20 of the spec). -/
def Obligations.ImpossibleAccessesStop : Prop :=
  ∀ (i : Instr) (o : Operand) (s : State) (a : Word), s.CanRun → o.address s = some a →
    let hole := 0x4020 ≤ a.toNat ∧ a.toNat < 0x6000 ∨ 0x6000 ≤ a.toNat ∧ a.toNat < 0x8000 ∧ s.cart.prgRamLen = 0
    (∀ op, formOf i = .readUse op o → (∀ d, o.dummyRead true s = some d → s.readable d = true) →
      (0x4018 ≤ a.toNat ∧ a.toNat < 0x4020 → exec i s = .fault (.reservedIO a .read)) ∧
      (hole → exec i s = .fault (.cartridgeUnmapped a.toNat))) ∧
    (∀ r, formOf i = .store r o → (∀ d, o.dummyRead false s = some d → s.readable d = true) →
      (0x4018 ≤ a.toNat ∧ a.toNat < 0x4020 → exec i s = .fault (.reservedIO a .write)) ∧
      (hole → exec i s = .fault (.cartridgeUnmapped a.toNat)) ∧
      (0x8000 ≤ a.toNat → exec i s = .fault (.romWrite a))) ∧
    (∀ op, formOf i = .rmw op o → (∀ d, o.dummyRead false s = some d → s.readable d = true) →
      (0x4018 ≤ a.toNat ∧ a.toNat < 0x4020 → exec i s = .fault (.reservedIO a .read)) ∧
      (hole → exec i s = .fault (.cartridgeUnmapped a.toNat)) ∧
      (0x8000 ≤ a.toNat → exec i s = .fault (.romWrite a)))

/-- ASL LSR ROL ROR on the accumulator: A and the flags are the operation's; nothing else changes; one cycle after the
fetch (rule R267). -/
def Obligations.AccumulatorForms : Prop :=
  ∀ (i : Instr) (op : RmwOp) (s : State), formOf i = .rmwAcc op → s.CanRun → s.readable s.cpu.regs.pc = true →
    ∃ t, exec i s = .next t ∧
      t.cpu.regs = { s.cpu.regs with
        a := (op.run s.cpu.regs.a s.cpu.regs.p).1, p := (op.run s.cpu.regs.a s.cpu.regs.p).2 } ∧
      (∀ b, t.peek b = s.peek b) ∧ Untouched s t ∧ t.cyc = s.cyc + 1

/-- ASL and LSR shift by one, C the bit shifted out and 0 shifted in; ROL and ROR rotate the nine bits of C and the
byte; INC and DEC add and subtract one and leave C; N and Z follow the result; V, D and I are unchanged (rules R261 to
R266; the spec marks INC and DEC as general knowledge). -/
def Obligations.ShiftsRotatesAndCounts : Prop :=
  ∀ (op : RmwOp) (m : Byte) (p : Flags),
    let out : Nat × Bool := match op with
      | .asl => (2 * m.toNat, decide (128 ≤ m.toNat))
      | .lsr => (m.toNat / 2, decide (m.toNat % 2 = 1))
      | .rol => (2 * m.toNat + p.c.toNat, decide (128 ≤ m.toNat))
      | .ror => (m.toNat / 2 + 128 * p.c.toNat, decide (m.toNat % 2 = 1))
      | .inc => (m.toNat + 1, p.c)
      | .dec => (m.toNat + 255, p.c)
    op.run m p = (BitVec.ofNat 8 out.1,
      { p with c := out.2, n := decide (128 ≤ out.1 % 256), z := decide (out.1 % 256 = 0) })

/-! ## Single-byte instructions -/

/-- The eighteen single-byte instructions complete in one cycle after the fetch, with the registers their operation
gives, and change nothing else: no byte of memory, no special register (rule R270). -/
def Obligations.SingleByteInstructions : Prop :=
  ∀ (i : Instr) (op : SingleOp) (s : State), formOf i = .single op → s.CanRun → s.readable s.cpu.regs.pc = true →
    ∃ t, exec i s = .next t ∧ t.cpu.regs = op.run s.cpu.regs ∧ (∀ b, t.peek b = s.peek b) ∧ Untouched s t ∧
      t.cpu.t = 1 ∧ t.cyc = s.cyc + 1

/-- What each single-byte instruction does. CLC CLD CLI CLV SEC SED SEI write the one flag they name, NOP writes
nothing; INX DEX INY DEY count modulo 256 with N and Z from the result; TAX TAY TXA TYA TSX move with N and Z from the
byte moved; TXS moves and writes no flag (rules R271 to R288; what the flag instructions write, and N and Z, the spec
marks as general knowledge, G9; log 12). -/
def Obligations.FlagsCountsAndTransfers : Prop :=
  ∀ s : State, s.CanRun → s.readable s.cpu.regs.pc = true →
    let r := s.cpu.regs
    let nz := fun v : Byte => { r.p with n := decide (128 ≤ v.toNat), z := decide (v.toNat = 0) }
    (∃ t, exec .clc s = .next t ∧ t.cpu.regs = { r with p := { r.p with c := false } }) ∧
    (∃ t, exec .cld s = .next t ∧ t.cpu.regs = { r with p := { r.p with d := false } }) ∧
    (∃ t, exec .cli s = .next t ∧ t.cpu.regs = { r with p := { r.p with i := false } }) ∧
    (∃ t, exec .clv s = .next t ∧ t.cpu.regs = { r with p := { r.p with v := false } }) ∧
    (∃ t, exec .sec s = .next t ∧ t.cpu.regs = { r with p := { r.p with c := true } }) ∧
    (∃ t, exec .sed s = .next t ∧ t.cpu.regs = { r with p := { r.p with d := true } }) ∧
    (∃ t, exec .sei s = .next t ∧ t.cpu.regs = { r with p := { r.p with i := true } }) ∧
    (∃ t, exec .nop s = .next t ∧ t.cpu.regs = r) ∧
    (∃ t, exec .inx s = .next t ∧ t.cpu.regs = { r with x := r.x + 1, p := nz (r.x + 1) }) ∧
    (∃ t, exec .dex s = .next t ∧ t.cpu.regs = { r with x := r.x - 1, p := nz (r.x - 1) }) ∧
    (∃ t, exec .iny s = .next t ∧ t.cpu.regs = { r with y := r.y + 1, p := nz (r.y + 1) }) ∧
    (∃ t, exec .dey s = .next t ∧ t.cpu.regs = { r with y := r.y - 1, p := nz (r.y - 1) }) ∧
    (∃ t, exec .tax s = .next t ∧ t.cpu.regs = { r with x := r.a, p := nz r.a }) ∧
    (∃ t, exec .tay s = .next t ∧ t.cpu.regs = { r with y := r.a, p := nz r.a }) ∧
    (∃ t, exec .txa s = .next t ∧ t.cpu.regs = { r with a := r.x, p := nz r.x }) ∧
    (∃ t, exec .tya s = .next t ∧ t.cpu.regs = { r with a := r.y, p := nz r.y }) ∧
    (∃ t, exec .tsx s = .next t ∧ t.cpu.regs = { r with x := r.s, p := nz r.s }) ∧
    (∃ t, exec .txs s = .next t ∧ t.cpu.regs = { r with s := r.x })

/-! ## Branches -/

/-- BCC BCS BEQ BMI BNE BPL BVC BVS: not taken, nothing changes and no further cycle passes; taken, PC is the address
after the branch plus the offset modulo 65536, one cycle more within the page and two across; no flag, no other register
and no byte of memory changes (rules R300 to R308; the page test rests on the decision D14 of the spec). -/
def Obligations.BranchInstructions : Prop :=
  ∀ (i : Instr) (k : Cond) (off : Int) (s : State), formOf i = .branch k off → i.wellFormed = true → s.CanRun →
    let p := s.cpu.regs.p
    let taken := match k with
      | .cc => !p.c | .cs => p.c | .eq => p.z | .mi => p.n | .ne => !p.z | .pl => !p.n | .vc => !p.v | .vs => p.v
    let target := s.cpu.regs.pc + BitVec.ofInt 16 off
    (taken = false → ∃ t, exec i s = .next t ∧ t.cpu.regs = s.cpu.regs ∧ (∀ b, t.peek b = s.peek b) ∧ Untouched s t ∧
      t.cyc = s.cyc) ∧
    (taken = true → s.readable s.cpu.regs.pc = true →
      s.readable (joinBytes (hiByte s.cpu.regs.pc) (loByte target)) = true →
      ∃ t, exec i s = .next t ∧ t.cpu.regs = { s.cpu.regs with pc := target } ∧ (∀ b, t.peek b = s.peek b) ∧
        Untouched s t ∧ t.cyc = s.cyc + (if hiByte target = hiByte s.cpu.regs.pc then 1 else 2))

/-! ## Stack, jumps, subroutines -/

/-- PHA stores A, and PHP the six flags with bits 5 and 4 set, at the stack pointer, which is then one less modulo 256;
nothing else changes. PLA takes the byte above the stack pointer into A with N and Z, PLP into the six flags, bits 5 and
4 ignored; the stack pointer is one more modulo 256; no byte of memory changes (rules R315 to R318; the cycles and the
pull are the spec's decision D13, the places of the flags D5, and N and Z of PLA general knowledge, G9; log 12). -/
def Obligations.PushesAndPulls : Prop :=
  ∀ s : State, s.CanRun → s.readable s.cpu.regs.pc = true →
    (∀ (i : Instr) (v : Byte), MemoriesOk s →
      (i = .pha ∧ v = s.cpu.regs.a ∨
        i = .php ∧ v.getLsbD 7 = s.cpu.regs.p.n ∧ v.getLsbD 6 = s.cpu.regs.p.v ∧ v.getLsbD 5 = true ∧
          v.getLsbD 4 = true ∧ v.getLsbD 3 = s.cpu.regs.p.d ∧ v.getLsbD 2 = s.cpu.regs.p.i ∧
          v.getLsbD 1 = s.cpu.regs.p.z ∧ v.getLsbD 0 = s.cpu.regs.p.c) →
      ∃ t, exec i s = .next t ∧ t.cpu.regs = { s.cpu.regs with s := s.cpu.regs.s - 1 } ∧
        t.peek (stackAddr s.cpu.regs.s) = some v ∧ SameBytesExcept [stackCell s.cpu.regs.s 0] s t ∧ Untouched s t ∧
        t.cyc = s.cyc + 2) ∧
    ∀ v : Byte, s.peek (stackAddr (s.cpu.regs.s + 1)) = some v →
      (∃ t, exec .pla s = .next t ∧
        t.cpu.regs = { s.cpu.regs with
          a := v, s := s.cpu.regs.s + 1, p := { s.cpu.regs.p with n := v.getLsbD 7, z := decide (v = 0) } } ∧
        (∀ b, t.peek b = s.peek b) ∧ Untouched s t ∧ t.cyc = s.cyc + 3) ∧
      (∃ t, exec .plp s = .next t ∧
        t.cpu.regs = { s.cpu.regs with
          s := s.cpu.regs.s + 1,
          p := { c := v.getLsbD 0, z := v.getLsbD 1, i := v.getLsbD 2, d := v.getLsbD 3, v := v.getLsbD 6,
                 n := v.getLsbD 7 } } ∧
        (∀ b, t.peek b = s.peek b) ∧ Untouched s t ∧ t.cyc = s.cyc + 3)

/-- JMP absolute loads PC from its operand; JMP indirect from the pointer, the high byte from the same page when the
pointer ends in 0xFF; nothing else changes (rules R197, R319, R320; the cycles are the spec's decision D13, general
knowledge; log 12). -/
def Obligations.Jumps : Prop :=
  ∀ (a : Word) (s : State),
    (∃ t, exec (.jmpAbs a) s = .next t ∧ t.cpu.regs = { s.cpu.regs with pc := a } ∧ (∀ b, t.peek b = s.peek b) ∧
      Untouched s t ∧ t.cyc = s.cyc) ∧
    ∀ l h : Byte, s.CanRun → s.peek a = some l → s.peek (joinBytes (hiByte a) (loByte a + 1)) = some h →
      ∃ t, exec (.jmpInd a) s = .next t ∧ t.cpu.regs = { s.cpu.regs with pc := joinBytes h l } ∧
        (∀ b, t.peek b = s.peek b) ∧ Untouched s t ∧ t.cyc = s.cyc + 2

/-- JSR, its low target byte fetched and PC at its last byte (where the meaning starts: log 6): PC goes on the stack,
high byte first, S is two less, and PC takes the target, whose high byte is the one that stands at PC after the pushes;
nothing else changes. RTS: PC is one more than the word above the stack pointer, S is two more; no byte of memory
changes (rules R321, R322; the cycles, the address pushed and the one added are the spec's decision D13, general
knowledge; log 12). -/
def Obligations.SubroutineCallAndReturn : Prop :=
  ∀ s : State, s.CanRun → s.readable s.cpu.regs.pc = true →
    (∀ a : Word, MemoriesOk s →
      ∃ t h, exec (.jsr a) s = .next t ∧
        t.cpu.regs = { s.cpu.regs with s := s.cpu.regs.s - 2, pc := joinBytes h (loByte a) } ∧
        (∀ v, t.peek s.cpu.regs.pc = some v → h = v) ∧
        t.peek (stackAddr s.cpu.regs.s) = some (hiByte s.cpu.regs.pc) ∧
        t.peek (stackAddr (s.cpu.regs.s - 1)) = some (loByte s.cpu.regs.pc) ∧
        SameBytesExcept [stackCell s.cpu.regs.s 0, stackCell s.cpu.regs.s 1] s t ∧ Untouched s t ∧ t.cyc = s.cyc + 4) ∧
    ∀ l h : Byte, s.peek (stackAddr (s.cpu.regs.s + 1)) = some l → s.peek (stackAddr (s.cpu.regs.s + 2)) = some h →
      s.readable (joinBytes h l) = true →
      ∃ t, exec .rts s = .next t ∧
        t.cpu.regs = { s.cpu.regs with s := s.cpu.regs.s + 2, pc := joinBytes h l + 1 } ∧
        (∀ b, t.peek b = s.peek b) ∧ Untouched s t ∧ t.cyc = s.cyc + 5

/-! ## System instructions -/

/-- BRK, PC past its opcode: PC plus one (the padding byte skipped) goes on the stack, high byte first, then the status
with bits 5 and 4 set; I is set, D is not touched; PC is the vector at 0xFFFE; S is three less; nothing else changes
(rules R330, R530; the padding byte and I rest on the decisions D11 and D12 of the spec). -/
def Obligations.BreakInstruction : Prop :=
  ∀ s : State, s.CanRun → MemoriesOk s → s.readable s.cpu.regs.pc = true →
    ∃ t l h, exec .brk s = .next t ∧ s.peek 0xFFFE = some l ∧ s.peek 0xFFFF = some h ∧
      t.cpu.regs = { s.cpu.regs with s := s.cpu.regs.s - 3, pc := joinBytes h l, p := { s.cpu.regs.p with i := true } } ∧
      t.peek (stackAddr s.cpu.regs.s) = some (hiByte (s.cpu.regs.pc + 1)) ∧
      t.peek (stackAddr (s.cpu.regs.s - 1)) = some (loByte (s.cpu.regs.pc + 1)) ∧
      t.peek (stackAddr (s.cpu.regs.s - 2)) = some (s.cpu.regs.p.toByte true) ∧
      SameBytesExcept [stackCell s.cpu.regs.s 0, stackCell s.cpu.regs.s 1, stackCell s.cpu.regs.s 2] s t ∧
      Untouched s t ∧ t.cyc = s.cyc + 6

/-- RTI: the flags from the first byte above the stack pointer, bits 5 and 4 ignored, PC from the two after it, nothing
added; S is three more; nothing else changes (rule R331; the cycles are the spec's decision D13 and the places of the
flags D5, general knowledge; log 12). -/
def Obligations.ReturnFromInterrupt : Prop :=
  ∀ (s : State) (v l h : Byte), s.CanRun → s.readable s.cpu.regs.pc = true →
    s.peek (stackAddr (s.cpu.regs.s + 1)) = some v → s.peek (stackAddr (s.cpu.regs.s + 2)) = some l →
    s.peek (stackAddr (s.cpu.regs.s + 3)) = some h →
    ∃ t, exec .rti s = .next t ∧
      t.cpu.regs = { s.cpu.regs with
        s := s.cpu.regs.s + 3, pc := joinBytes h l,
        p := { c := v.getLsbD 0, z := v.getLsbD 1, i := v.getLsbD 2, d := v.getLsbD 3, v := v.getLsbD 6,
               n := v.getLsbD 7 } } ∧
      (∀ b, t.peek b = s.peek b) ∧ Untouched s t ∧ t.cyc = s.cyc + 5

/-- Calls and returns pair: RTS run at JSR's target resumes after JSR's last byte with S restored, and RTI run at BRK's
vector restores A, X, Y, S and the six flags and leaves PC past the padding byte (rules R323 d, R332; BRK rests on the
decisions D11 and D12 of the spec). -/
def Obligations.ReturnsUndoTheirCalls : Prop :=
  ∀ s t : State, s.CanRun → MemoriesOk s → s.readable s.cpu.regs.pc = true → t.readable t.cpu.regs.pc = true →
    (∀ a, exec (.jsr a) s = .next t →
      ∃ u, exec .rts t = .next u ∧ u.cpu.regs = { s.cpu.regs with pc := s.cpu.regs.pc + 1 }) ∧
    (exec .brk s = .next t →
      ∃ u, exec .rti t = .next u ∧ u.cpu.regs = { s.cpu.regs with pc := s.cpu.regs.pc + 1 })

/-! ## The machine as a whole -/

/-- Every step keeps every memory in canonical form and within its size, and every counter in its range (rules R31, R33,
R36, R38, R39, R41, R44). -/
def Obligations.StepKeepsTheInvariant : Prop :=
  ∀ s t : State, s.Inv → step s = .next t → t.Inv

/-- The invariant holds at reset, and after construct for every accepted cartridge, every audio parameters and every
power-on record whose memories are in canonical form (rule R571). The reset state is that of the model's blank cartridge
and of the zero power-on record (logs 1 and 2, DESIGN CHOICE), with the default audio parameters (log 11). -/
def Obligations.ResetHasTheInvariant : Prop :=
  State.reset.Inv ∧ ∀ (cart : Cartridge) (po : PowerOn) (audio : AudioParams) (s : State),
    State.construct cart po audio = .ok s → MemoriesOk (State.powerOn cart po audio) → s.Inv

/-- No step changes the cartridge or the audio parameters: PRG-ROM, CHR-ROM, their sizes and the mirroring, OUTPUT_RATE
and DUTY are fixed (rules R4, R47, R106). -/
def Obligations.CartridgeNeverChanges : Prop :=
  ∀ s t : State, step s = .next t → t.cart = s.cart ∧ t.apu.params = s.apu.params ∧ t.fault = none

/-- Every tick takes one CPU cycle, latches the APU's IRQ by its level and the PPU's NMI line by its rising edge: a
pending NMI stays, unless the tick is a T1 step of the CPU whose poll takes it (RESET not asserted, no reset pending),
and a rising edge sets it in every tick (rules R490, R524, R525, R528; the latch points are the spec's decision D47 and
the edge memory D54; log 12). -/
def Obligations.TickLatchesTheInterrupts : Prop :=
  ∀ s t : State, s.tick = .ok t →
    let taken := !s.dma.active && !s.cpu.resetLine && decide (s.cpu.t = 1) && !s.cpu.pendingReset
    t.cyc = s.cyc + 1 ∧ t.cpu.irqLine = t.apu.frameIrq ∧
    t.cpu.nmiPrev = (t.ppu.ctrl.generateVblankNmi && t.ppu.vblankStarted) ∧
    t.cpu.pendingNmi = (s.cpu.pendingNmi && !taken || t.cpu.nmiPrev && !s.cpu.nmiPrev)

/-- Every tick moves the raster three dots along 262 lines of 341, with no dot skipped: a frame is 89,342 dots (rules
R392, R393, R492; that no dot is skipped is the spec's decision D35; log 12). -/
def Obligations.TickMovesTheRaster : Prop :=
  ∀ s t : State, CountersOk s → s.tick = .ok t → t.ppu.position = (s.ppu.position + 3) % 89342

/-- An OAM DMA from a page of memory: 513 ticks after a write in an even cycle, 514 after an odd one; the 256 bytes of
the page lie in OAM from OAMADDR on, modulo 256; OAMADDR ends where it began; the CPU's registers, memory, and the cycle
it stands in are frozen (rules R494, R495, R497, R498; the even and odd cycles are counted by the spec's decision D17).
Pages of device registers are left out. -/
def Obligations.OamDmaCopiesThePage : Prop :=
  ∀ (s : State) (page : Byte), s.PpuSafe → MemoriesOk s → s.cpu.ab = 0x4014 →
    (∀ k : Byte, (s.peek (joinBytes page k)).isSome = true) →
    ∃ t, (s.dmaStart page).finishDma = .ok t ∧ t.dma.active = false ∧
      t.cyc = s.cyc + (if s.cyc % 2 = 0 then 513 else 514) ∧
      (∀ k : Byte, some (t.ppu.oam.read (s.ppu.oamAddr + k).toNat) = s.peek (joinBytes page k)) ∧
      t.ppu.oamAddr = s.ppu.oamAddr ∧ t.cpu.regs = s.cpu.regs ∧ t.cpu.t = s.cpu.t ∧
      t.cpu.deferred = s.cpu.deferred ∧ (∀ a, t.peek a = s.peek a)

/-! ## Memory map -/

/-- Mirrors of memory: a byte written to RAM is read back at each of its four mirrors, and reading changes nothing; a
PRG-ROM of 16 KiB appears at 0x8000 and at 0xC000, and writes of either stop (rules R84, R87, R100, R103; the PRG-ROM
write's fault rests on the decision D20 of the spec). -/
def Obligations.MemoryIsMirrored : Prop :=
  (∀ (s : State) (a b : Word) (v : Byte), MemoriesOk s → a.toNat < 0x2000 → b.toNat < 0x2000 →
    b.toNat % 0x0800 = a.toNat % 0x0800 → ∃ t, s.busWrite a v = .ok t ∧ t.busRead b = .ok (v, t)) ∧
  ∀ (s : State) (k : Nat) (v : Byte), k < 0x4000 → s.cart.prgRomLen = 0x4000 →
    let a : Word := BitVec.ofNat 16 (0x8000 + k)
    let b : Word := BitVec.ofNat 16 (0xC000 + k)
    s.busRead a = .ok (s.cart.prgRom.read k, s) ∧ s.busRead b = .ok (s.cart.prgRom.read k, s) ∧
      s.busWrite a v = .error (.romWrite a) ∧ s.busWrite b v = .error (.romWrite b)

/-- The nametable index follows the mirroring mode: with vertical mirroring it is the address modulo 2048, with
horizontal the address modulo 1024; so with horizontal mirroring an address and its exclusive or with 0x0400 share a
byte, with vertical an address and its exclusive or with 0x0800, and the index lies in the 2 KiB (rule R111). -/
def Obligations.NametablesAreMirrored : Prop :=
  ∀ p : BitVec 14,
    vramIndex .vertical p = p.toNat % 2048 ∧ vramIndex .horizontal p = p.toNat % 1024 ∧
    vramIndex .horizontal (p ^^^ 0x0400) = vramIndex .horizontal p ∧
    vramIndex .vertical (p ^^^ 0x0800) = vramIndex .vertical p ∧
    ∀ m, vramIndex m p < 2048

/-! ## PPU -/

/-- After x writes to OAMDATA starting at OAMADDR = k, the bytes at [k, k + x) are the written sequence, modulo 256, the
others are unchanged, and OAMADDR is k + x; a read returns the byte at OAMADDR and does not move it (rule R351). -/
def Obligations.OamDataSequence : Prop :=
  ∀ (p : Ppu) (ds : List Byte), p.oam.wf = true → ds.length ≤ 256 →
    let q := ds.foldl Ppu.writeOamData p
    (∀ j (h : j < ds.length), q.oam.read ((p.oamAddr + BitVec.ofNat 8 j).toNat) = ds[j]) ∧
    (∀ k : Byte, (∀ j, j < ds.length → k ≠ p.oamAddr + BitVec.ofNat 8 j) → q.oam.read k.toNat = p.oam.read k.toNat) ∧
    q.oamAddr = p.oamAddr + BitVec.ofNat 8 ds.length ∧
    q.readOamData.cpuData = q.oam.read q.oamAddr.toNat ∧ q.readOamData.oamAddr = q.oamAddr

/-- The two-write registers, which share one toggle. From any state of the registers, the first write of PPUADDR sets
bits 13 to 8 of t and clears bit 14, the second sets bits 7 to 0 and copies t to v; the first write of PPUSCROLL sets
fine X and coarse X, the second fine Y and coarse Y, and v is not written; each write turns the toggle (rules R352, R353;
that PPUADDR clears bit 14 is the spec's decision D33). -/
def Obligations.TwoWriteRegisters : Prop :=
  ∀ (p : Ppu) (x : Byte),
    (let q := p.writeAddr x
     q.w = !p.w ∧ q.fineX = p.fineX ∧
       (p.w = false → q.v = p.v ∧ q.t.toNat = x.toNat % 64 * 256 + p.t.toNat % 256) ∧
       (p.w = true → q.v = q.t ∧ q.t.toNat = p.t.toNat / 256 * 256 + x.toNat)) ∧
    (let q := p.writeScroll x
     q.w = !p.w ∧ q.v = p.v ∧ nametable q.t = nametable p.t ∧
       (p.w = false → q.fineX.toNat = x.toNat % 8 ∧ (coarseX q.t).toNat = x.toNat / 8 ∧ coarseY q.t = coarseY p.t ∧
         fineY q.t = fineY p.t) ∧
       (p.w = true → q.fineX = p.fineX ∧ (fineY q.t).toNat = x.toNat % 8 ∧ (coarseY q.t).toNat = x.toNat / 8 ∧
         coarseX q.t = coarseX p.t))

/-- A PPUDATA read below 0x3F00 with rendering off returns the buffered byte, refills the buffer in the next PPU step
with the byte at the address, and moves v by 1 or 32 modulo 0x8000 (rules R346, R355; the 15-bit wrap is the spec's
decision D64). -/
def Obligations.PpuDataReadIsBuffered : Prop :=
  ∀ (s : State) (d : Byte), s.ppu.renderingEnabled = false → s.ppu.access = true → s.ppu.cpuRw = .read →
    s.ppu.cpuReg = 7 → s.ppu.dataAddr.toNat < 0x3F00 → s.ppuBusRead s.ppu.dataAddr = .ok d →
    ∃ t u, s.ppuStep = .ok t ∧ t.ppuStep = .ok u ∧
      t.ppu.cpuData = (if s.ppu.fillPending then s.ppu.vramData else s.ppu.dataBuffer) ∧ u.ppu.dataBuffer = d ∧
      u.ppu.v = s.ppu.v + (if s.ppu.ctrl.vramIncrement then 32 else 1) ∧ u.vram = s.vram

/-- A PPUDATA write with rendering off: into nametable VRAM at its mirrored index, or into palette RAM from 0x3F00 on,
and v moves by 1 or 32; below 0x2000 it stops by name (rules R105, R112, R354; the palette index and the 15-bit wrap are
the spec's decisions D34 and D64). -/
def Obligations.PpuDataWrite : Prop :=
  ∀ s : State, s.ppu.renderingEnabled = false → s.ppu.access = true → s.ppu.cpuRw = .write → s.ppu.cpuReg = 7 →
    let a := s.ppu.dataAddr
    let v := s.ppu.v + (if s.ppu.ctrl.vramIncrement then 32 else 1)
    (a.toNat < 0x2000 → s.ppuStep = .error (.chrWrite a)) ∧
    (0x2000 ≤ a.toNat → a.toNat < 0x3F00 → ∃ t, s.ppuStep = .ok t ∧
      t.vram = s.vram.write (vramIndex s.cart.mirroring a) s.ppu.cpuData ∧ t.ppu.v = v ∧
      t.ppu.palette = s.ppu.palette) ∧
    (0x3F00 ≤ a.toNat → ∃ t, s.ppuStep = .ok t ∧
      t.ppu.palette = s.ppu.palette.write (a.toNat % 32) s.ppu.cpuData ∧ t.ppu.v = v ∧ t.vram = s.vram)

/-- A PPUSTATUS read returns v-blank in bit 7 and sprite overflow in bit 5, and clears v-blank and the write toggle, not
the overflow, which only line 261 dot 1 clears; v-blank is set by the step of line 241 dot 1 and cleared by that of line
261 dot 1, together with frame-complete (rules R344, R349, R390; the register's number and bits are the spec's decisions
D23 and D24, the read's bits 4 to 0 D33, the clearing of the overflow D31; log 12). -/
def Obligations.VblankFlag : Prop :=
  ∀ p q : Ppu, p.step = .ok q →
    (p.access = true → p.cpuRw = .read → p.cpuReg = 2 →
      q.cpuData.toNat = 128 * p.vblankStarted.toNat + 64 * p.sprite0Hit.toNat + 32 * p.spriteOverflow.toNat ∧
      q.w = false) ∧
    (p.spriteOverflow = true → ¬(p.scanline = 261 ∧ p.dot = 1) → q.spriteOverflow = true) ∧
    (p.scanline = 241 → p.dot = 1 → q.vblankStarted = true ∧ q.frameComplete = true) ∧
    (p.scanline = 261 → p.dot = 1 → q.vblankStarted = false ∧ q.frameComplete = false ∧ q.spriteOverflow = false) ∧
    (¬(p.scanline = 241 ∧ p.dot = 1) → ¬(p.scanline = 261 ∧ p.dot = 1) →
      q.frameComplete = p.frameComplete ∧
      q.vblankStarted = (p.vblankStarted && !(p.access && decide (p.cpuRw = .read) && decide (p.cpuReg = 2))))

/-- The scroll address. Horizontally, an increment adds one below the last tile, 32 increments toggle the horizontal
nametable bit and change nothing else, and 64 return to the start; vertically, an increment adds a line within a tile,
and 240 from row 0 of a nametable only toggle its vertical bit. The copies take from `t` the horizontal bits (4 to 0 and
10) or the vertical ones (9 to 5 and 14 to 11). A dot of a rendering line, with rendering on and no register access,
moves `v` at its place on the line: horizontally at dots 8 to 256 by eights, 328 and 336, vertically at 256, the
horizontal copy at 257, the vertical one at 280 to 304 of line 261, and nowhere else (rules R369 to R372; the row 29 is
the spec's decision D59, the lines D26, what rendering means D58; log 12). -/
def Obligations.ScrollCountersWrap : Prop :=
  (∀ v : BitVec 15,
    (coarseX v ≠ 31 → incrementX v = v + 1) ∧ incrementX^[32] v = setNametable v (nametable v ^^^ 0b01) ∧
    incrementX^[64] v = v ∧ (fineY v ≠ 7 → incrementY v = v + 0x1000) ∧
    (fineY v = 0 → coarseY v = 0 → incrementY^[240] v = setNametable v (nametable v ^^^ 0b10))) ∧
  (∀ (v t : BitVec 15) (k : Nat), k < 15 →
    (copyHorizontal v t).getLsbD k = (if k < 5 ∨ k = 10 then t.getLsbD k else v.getLsbD k) ∧
    (copyVertical v t).getLsbD k = (if k < 5 ∨ k = 10 then v.getLsbD k else t.getLsbD k)) ∧
  ∀ p q : Ppu, p.step = .ok q → p.access = false → p.renderingEnabled = true →
    q.v =
      if ¬(p.scanline ≤ 239 ∨ p.scanline = 261) then p.v
      else if p.dot = 256 then incrementY (incrementX p.v)
      else if p.dot % 8 = 0 ∧ p.dot ≠ 0 ∧ (p.dot < 256 ∨ 320 < p.dot) then incrementX p.v
      else if p.dot = 257 then copyHorizontal p.v p.t
      else if p.scanline = 261 ∧ 280 ≤ p.dot ∧ p.dot ≤ 304 then copyVertical p.v p.t
      else p.v

/-- Sprite evaluation, in a step with rendering on and no register access. Dot 1 of a line that renders clears secondary
OAM to 0xFF and its count to 0. Dot 65 of a visible line copies the first eight sprites of OAM in range of the next line,
in OAM order, four bytes each, counts them, leaves the bytes after them, and sets the overflow flag exactly when there
are more. No other dot changes secondary OAM or the count (rules R360, R380, R381, R384; the half-open range test is the
spec's decision D27, the lines D26 and D61, what rendering means D58; log 12). -/
def Obligations.SpritesAreEvaluated : Prop :=
  ∀ p q : Ppu, p.step = .ok q → p.access = false → p.renderingEnabled = true → p.secOam.wf = true →
    let clears := p.dot = 1 ∧ (p.scanline ≤ 239 ∨ p.scanline = 261)
    let scans := p.dot = 65 ∧ p.scanline ≤ 239
    let h := if p.ctrl.spriteHeight16 then 16 else 8
    let inRange := (List.range 64).filter fun k =>
      decide ((p.oam.read (4 * k)).toNat ≤ p.scanline + 1 ∧ p.scanline + 1 < (p.oam.read (4 * k)).toNat + h)
    (clears → q.secCount = 0 ∧ ∀ k, k < 32 → q.secOam.read k = 0xFF) ∧
    (scans → p.secCount = 0 →
      q.secCount = min 8 inRange.length ∧ q.spriteOverflow = (p.spriteOverflow || decide (8 < inRange.length)) ∧
      (∀ j b, j < q.secCount → b < 4 → q.secOam.read (4 * j + b) = p.oam.read (4 * inRange.getD j 0 + b)) ∧
      ∀ k, 4 * q.secCount ≤ k → q.secOam.read k = p.secOam.read k) ∧
    (¬clears → ¬scans → q.secCount = p.secCount ∧ q.secOam = p.secOam)

/-- The eight dots of a slot's sprite fetch, with rendering on and no register access, load slot `n` with the two
pattern bytes of the sprite's row on the next line, mirrored when its attribute says so, its attribute and its x; a slot
with no sprite is made transparent; the other slots are unchanged. On dots 1 to 256 of a visible line every slot counts
its x down to 0 and then shifts (rules R368, R386; the row and the flips are the spec's decision D27, the dots D28 and
D53, the lines D26, what rendering means D58; log 12). -/
def Obligations.SpritesAreFetchedAndShifted : Prop :=
  (∀ (s : State) (n : Nat) (lo hi : Byte), s.ppu.access = false → s.ppu.renderingEnabled = true →
    s.ppu.ctrl.spriteHeight16 = false → s.ppu.scanline ≤ 239 ∨ s.ppu.scanline = 261 → n < 8 →
    s.ppu.dot = 257 + 8 * n → s.ppu.slots.length = 8 →
    let y := s.ppu.secOam.read (4 * n)
    let tile := s.ppu.secOam.read (4 * n + 1)
    let attr := s.ppu.secOam.read (4 * n + 2)
    let x := s.ppu.secOam.read (4 * n + 3)
    let row := (s.ppu.scanline + 1 + 256 - y.toNat) % 8
    let addr := 4096 * s.ppu.ctrl.sprPtBase.toNat + 16 * tile.toNat + (if attr.getLsbD 7 then 7 - row else row)
    let turn := fun b : Byte => if attr.getLsbD 6 then b.reverse else b
    (n < s.ppu.secCount → s.ppuBusRead (BitVec.ofNat 14 addr) = .ok lo → s.ppuBusRead (BitVec.ofNat 14 (addr + 8)) = .ok hi →
      ∃ t, State.dots 8 s = .ok t ∧ t.ppu.slots = s.ppu.slots.set n ⟨⟨turn hi, turn lo⟩, attr, x⟩) ∧
    (s.ppu.secCount ≤ n → ∃ t, State.dots 8 s = .ok t ∧ t.ppu.slots = s.ppu.slots.set n ⟨⟨0, 0⟩, 0, 0xFF⟩)) ∧
  ∀ (p q : Ppu) (sl : Slot) (n : Nat), p.step = .ok q → p.access = false → p.renderingEnabled = true →
    p.scanline ≤ 239 → 1 ≤ p.dot → p.dot ≤ 256 → p.slots[n]? = some sl →
    q.slots[n]? = some (if sl.xcnt = 0 then { sl with pat := ⟨sl.pat.u <<< 1, sl.pat.l <<< 1⟩ }
      else { sl with xcnt := sl.xcnt - 1 })

/-- The eight dots of a background tile, with rendering on and no register access, on a line that renders, fetch the
four bytes of the tile that `v` names: its nametable byte, its attribute byte shifted to its quadrant, and the two
pattern bytes of its row. Every dot from 1 to 336 shifts the four planes by one, after the reload of dots 9 to 257 and
329 by eights has put the pattern bytes below and taken the palette bits from the attribute byte (rules R362, R366,
R367, R385; the fetch dots and the lines are the spec's decisions D25 and D26, the quadrant D60, what rendering means
D58; log 12). -/
def Obligations.BackgroundIsFetchedAndShifted : Prop :=
  (∀ (s : State) (nt attr lo hi : Byte), s.ppu.access = false → s.ppu.renderingEnabled = true →
    s.ppu.scanline ≤ 239 ∨ s.ppu.scanline = 261 → s.ppu.dot % 8 = 1 → s.ppu.dot ≤ 249 ∨ s.ppu.dot = 321 ∨ s.ppu.dot = 329 →
    let v := s.ppu.v
    let addr := 4096 * s.ppu.ctrl.bgPtBase.toNat + 16 * nt.toNat + (fineY v).toNat
    s.ppuBusRead (BitVec.ofNat 14 (0x2000 + v.toNat % 4096)) = .ok nt →
    s.ppuBusRead (BitVec.ofNat 14
      (0x23C0 + 1024 * (nametable v).toNat + 8 * ((coarseY v).toNat / 4) + (coarseX v).toNat / 4)) = .ok attr →
    s.ppuBusRead (BitVec.ofNat 14 addr) = .ok lo → s.ppuBusRead (BitVec.ofNat 14 (addr + 8)) = .ok hi →
    ∃ t, State.dots 8 s = .ok t ∧ t.ppu.ntByte = nt ∧ t.ppu.ptLo = lo ∧ t.ppu.ptHi = hi ∧
      t.ppu.atByte = attr >>> (4 * ((coarseY v).toNat / 2 % 2) + 2 * ((coarseX v).toNat / 2 % 2))) ∧
  ∀ p q : Ppu, p.step = .ok q → p.access = false → p.renderingEnabled = true →
    p.scanline ≤ 239 ∨ p.scanline = 261 → 1 ≤ p.dot → p.dot ≤ 336 →
    let loads := decide (p.dot % 8 = 1) && (decide (9 ≤ p.dot ∧ p.dot ≤ 257) || decide (p.dot = 329))
    let pal := if loads then p.atByte.toNat % 4 else p.palLatch.toNat
    let low := fun (plane b : Nat) => if loads then plane / 256 * 256 + b else plane
    q.bgPat.u.toNat = 2 * low p.bgPat.u.toNat p.ptHi.toNat % 65536 ∧
    q.bgPat.l.toNat = 2 * low p.bgPat.l.toNat p.ptLo.toNat % 65536 ∧
    q.bgPal.u.toNat = (2 * p.bgPal.u.toNat + pal / 2) % 256 ∧ q.bgPal.l.toNat = (2 * p.bgPal.l.toNat + pal % 2) % 256 ∧
    q.palLatch.toNat = pal

/-- A dot from 1 to 256 of a visible line, with rendering on and no register access, writes one pixel of the frame
buffer, the palette byte of the sprite or the background: the first slot whose x has come down to 0 and whose pixel is
not 0 gives the sprite, which is shown where the background pixel is 0 or its attribute bit 5 is clear; no other dot
writes a pixel (rules R363 to R365, R394; what the enable bits do is the spec's decision D30, the palette index D34, the
lines D26, what rendering means D58; log 12). -/
def Obligations.PixelIsComposed : Prop :=
  ∀ p q : Ppu, p.step = .ok q → p.access = false → p.frameBuffer.wf = true →
    let fx := p.fineX.toNat
    let bg := if p.mask.showBackground then 2 * (p.bgPat.u.getLsbD (15 - fx)).toNat + (p.bgPat.l.getLsbD (15 - fx)).toNat else 0
    let pal := 2 * (p.bgPal.u.getLsbD (7 - fx)).toNat + (p.bgPal.l.getLsbD (7 - fx)).toNat
    let px := fun sl : Slot => 2 * (sl.pat.u.getLsbD (7 - fx)).toNat + (sl.pat.l.getLsbD (7 - fx)).toNat
    let index := match if p.mask.showSprites then p.slots.find? fun sl => decide (sl.xcnt = 0 ∧ px sl ≠ 0) else none with
      | some sl => if bg = 0 ∨ sl.attr.getLsbD 5 = false then 16 + 4 * (sl.attr.toNat % 4) + px sl else 4 * pal + bg
      | none => 4 * pal + bg
    if p.renderingEnabled = true ∧ p.scanline ≤ 239 ∧ 1 ≤ p.dot ∧ p.dot ≤ 256 then
      q.frameBuffer.read (256 * p.scanline + p.dot - 1) = p.palette.read index ∧
        ∀ k, k ≠ 256 * p.scanline + p.dot - 1 → q.frameBuffer.read k = p.frameBuffer.read k
    else q.frameBuffer = p.frameBuffer

/-! ## APU -/

/-- The frame interrupt: from a count of 0 in four-step mode with the inhibit bit clear, it is latched by the 29,828th
step and not before, and the count has period 29,830 (rules R424, R463; that the count is incremented first is the
spec's decision D37). -/
def Obligations.FrameInterruptTiming : Prop :=
  ∀ a : Apu, a.mode = .fourStep → a.irqInhibit = false → a.count = 0 → a.frameIrq = false →
    (∀ n, n < 29828 → (Apu.step^[n] a).frameIrq = false) ∧ (Apu.step^[29828] a).frameIrq = true ∧
      (Apu.step^[29830] a).count = 0

/-- What one APU step does to the units of the channels. A length counter falls by one on a half-frame pulse when it is
not halted and not 0. The linear counter is reloaded or falls on a quarter-frame pulse. A sweep whose divider is at 0 on
a half-frame pulse sets the period to its target when it is enabled and the channel is not muted, and its divider is
reloaded or falls. The timers count down and reload, the triangle's every step and the pulses' every second one, and the
sequencers advance at 0, the triangle's only while both of its counters run. The pulses are at counts 7,457, 14,913,
22,371 and the last of the period, the half-frame ones at the second and last (rules R46, R424, R433, R437, R439 to
R441; the spec's decisions D37, D38, D39, D41 and D43; log 12). -/
def Obligations.ChannelUnitsStep : Prop :=
  ∀ a : Apu, a.count + 1 ≤ a.mode.wrap →
    let last := decide (a.count + 2 = a.mode.wrap)
    let half := decide (a.count + 1 = 14913) || last
    let quarter := decide (a.count + 1 = 7457) || decide (a.count + 1 = 22371) || half
    let length := fun l : LengthCounter => if half && !l.halt && decide (l.counter ≠ 0) then l.counter - 1 else l.counter
    let per := fun p : Pulse => p.timer.reload.toNat
    let target := fun p : Pulse =>
      if p.sweep.negate then per p - per p / 2 ^ p.sweep.shift.toNat else per p + per p / 2 ^ p.sweep.shift.toNat
    let pulse := fun p q : Pulse =>
      q.length.counter = length p.length ∧
      per q = (if half && decide (p.sweep.divider.counter = 0) && p.sweep.enabled && decide (target p ≤ 0x7FF) &&
        decide (8 ≤ per p) then target p else per p) ∧
      q.sweep.divider.counter = (if !half then p.sweep.divider.counter
        else if decide (p.sweep.divider.counter = 0) || p.sweep.reloadPending then p.sweep.divider.reload
        else p.sweep.divider.counter - 1) ∧
      q.sweep.reloadPending = (p.sweep.reloadPending && !half) ∧
      q.timer.counter = (if !a.phase then p.timer.counter
        else if p.timer.counter = 0 then p.timer.reload else p.timer.counter - 1) ∧
      q.seqPos = (if a.phase && decide (p.timer.counter = 0) then p.seqPos + 1 else p.seqPos)
    let t := a.triangle
    let u := a.step.triangle
    pulse a.pulse1 a.step.pulse1 ∧ pulse a.pulse2 a.step.pulse2 ∧ a.step.phase = !a.phase ∧
    u.length.counter = length t.length ∧
    u.linear.counter.toNat = (if !quarter then t.linear.counter.toNat
      else if t.linear.reloadLatch then t.linear.reloadValue.toNat else t.linear.counter.toNat - 1) ∧
    u.linear.reloadLatch = (t.linear.reloadLatch && (!quarter || t.linear.control)) ∧
    u.timer.counter = (if t.timer.counter = 0 then t.timer.reload else t.timer.counter - 1) ∧
    u.seqPos = (if t.timer.counter = 0 ∧ t.length.counter ≠ 0 ∧ t.linear.counter ≠ 0 then t.seqPos + 1 else t.seqPos)

/-- What each write of the APU register file puts in the state, field by field, and that it changes nothing else: the
pulses' control, sweep, timer and note-on registers, the triangle's linear, timer and note-on registers, the enable bits
of 0x4015, whose clearing zeroes the length counter, and the mode and inhibit bits of 0x4017, which neither clear the
frame interrupt nor touch the count. Note-on loads the length table's entry where the channel is enabled. The registers
of the absent channels take nothing (rules R421, R422, R425 to R432, R436, R461; the registers' bits are the spec's
decision D36, the length table beyond entries 0, 1 and 31 D40, the enable condition D42, what 0x4017 leaves alone D37,
and what is set at a sweep write and at note-on general knowledge; log 12). -/
def Obligations.ApuRegisterWrites : Prop :=
  ∀ (a : Apu) (d : Byte),
    let n := d.toNat
    let bit := fun k => decide (n / 2 ^ k % 2 = 1)
    let low := fun t : BitTimer 11 => { t with reload := BitVec.ofNat 11 (t.reload.toNat / 256 * 256 + n) }
    let high := fun t : BitTimer 11 => { t with reload := BitVec.ofNat 11 (n % 8 * 256 + t.reload.toNat % 256) }
    let table := [10, 254, 20, 2, 40, 4, 80, 6, 160, 8, 60, 10, 14, 12, 26, 14] ++
      [12, 16, 24, 18, 48, 20, 96, 22, 192, 24, 72, 26, 16, 28, 32, 30]
    let load := fun (on : Bool) (l : LengthCounter) =>
      if on then { l with counter := BitVec.ofNat 8 (table.getD (n / 8) 0) } else l
    let gate := fun (on : Bool) (l : LengthCounter) => if on then l else { l with counter := 0 }
    let control := fun p : Pulse =>
      { p with
        duty := BitVec.ofNat 2 (n / 64)
        length := { p.length with halt := bit 5 }
        env := { p.env with loop := bit 5, constantVolume := bit 4, param := BitVec.ofNat 4 n,
                            divider := { p.env.divider with reload := BitVec.ofNat 4 n } } }
    let sweep := fun p : Pulse =>
      { p with
        sweep := { p.sweep with enabled := bit 7, period := BitVec.ofNat 3 (n / 16), negate := bit 3,
                                shift := BitVec.ofNat 3 n, reloadPending := true,
                                divider := { p.sweep.divider with reload := BitVec.ofNat 3 (n / 16) } } }
    let timer := fun p : Pulse => { p with timer := low p.timer }
    let noteOn := fun p : Pulse =>
      { p with timer := high p.timer, length := load p.enabled p.length, seqPos := 0, env := { p.env with start := true } }
    let t := a.triangle
    a.write 0x00 d = { a with pulse1 := control a.pulse1 } ∧ a.write 0x04 d = { a with pulse2 := control a.pulse2 } ∧
    a.write 0x01 d = { a with pulse1 := sweep a.pulse1 } ∧ a.write 0x05 d = { a with pulse2 := sweep a.pulse2 } ∧
    a.write 0x02 d = { a with pulse1 := timer a.pulse1 } ∧ a.write 0x06 d = { a with pulse2 := timer a.pulse2 } ∧
    a.write 0x03 d = { a with pulse1 := noteOn a.pulse1 } ∧ a.write 0x07 d = { a with pulse2 := noteOn a.pulse2 } ∧
    a.write 0x08 d = { a with
      triangle := { t with linear := { t.linear with control := bit 7, reloadValue := BitVec.ofNat 7 n },
                           length := { t.length with halt := bit 7 } } } ∧
    a.write 0x0A d = { a with triangle := { t with timer := low t.timer } } ∧
    a.write 0x0B d = { a with
      triangle := { t with timer := high t.timer, length := load t.enabled t.length,
                           linear := { t.linear with reloadLatch := true } } } ∧
    a.write 0x15 d = { a with
      pulse1 := { a.pulse1 with enabled := bit 0, length := gate (bit 0) a.pulse1.length }
      pulse2 := { a.pulse2 with enabled := bit 1, length := gate (bit 1) a.pulse2.length }
      triangle := { t with enabled := bit 2, length := gate (bit 2) t.length } } ∧
    a.write 0x17 d = { a with mode := if bit 7 then .fiveStep else .fourStep, irqInhibit := bit 6 } ∧
    ∀ k, k = 0x09 ∨ 0x0C ≤ k ∧ k ≤ 0x13 → a.write k d = a

/-- An envelope that is restarted, with its parameter left alone, is at level 15 − k after 1 + k (param + 1) quarter
frames, k up to 15 (rule R438; the divider's arrangement is the spec's decision D52). -/
def Obligations.EnvelopeDecays : Prop :=
  ∀ (e : Envelope) (k : Nat), e.start = true → k ≤ 15 →
    (Envelope.step^[1 + k * (e.divider.reload.toNat + 1)] e).decayLevel.toNat = 15 - k

/-- From the channels to the samples. The levels that reach the mixer: a pulse gives 0 when its sweep target is above
0x7FF, its period below 8, its duty bit clear or its length counter 0, else its constant volume or its decay level; the
triangle falls from 15 to 0 and rises again; the default duty table is the rule's. The mixer is the rule's formula, lies
in [0, 1) for the levels the channels give, and is 0 exactly when all three are; the rule's reals are exact rationals
here (log 10, DESIGN CHOICE). An APU step gives the sample path the level of the state its units leave. The sample path,
whose values are free, keeps the counts: 2 n k mixer levels give k samples, n APU steps a filter input, and fewer than
2 n give none; n is 20 at the nominal rate of 44,100 (rules R423, R434, R435, R438 to R440, R450, R470; the default table
and the sequencer's direction are the spec's decision D39, the muting D41, what a filter period takes in, and the free
coefficients, D44; the rate and the duty table are parameters, log 11; log 12). -/
def Obligations.MixerLevelsAndSampleCounts : Prop :=
  (∀ a : Apu,
    let pulse := fun p : Pulse =>
      let per := p.timer.reload.toNat
      let change := per / 2 ^ p.sweep.shift.toNat
      if 0x7FF < (if p.sweep.negate then per - change else per + change) ∨ per < 8 ∨
          (a.params.duty[p.duty.toNat]'p.duty.isLt)[p.seqPos.toNat]'p.seqPos.isLt = false ∨ p.length.counter = 0 then 0
      else if p.env.constantVolume then p.env.param.toNat else p.env.decayLevel.toNat
    let k := a.triangle.seqPos.toNat
    a.mix = mixLevel (pulse a.pulse1) (pulse a.pulse2) (max (15 - k) (k - 16)) ∧
    a.step.sample = a.sample.step (Config.samplePeriod a.params.outputRate) a.step.mix) ∧
  AudioParams.default.duty.toList.map (fun row => row.toList.map Bool.toNat) =
    [[0, 1, 0, 0, 0, 0, 0, 0], [0, 1, 1, 0, 0, 0, 0, 0], [0, 1, 1, 1, 1, 0, 0, 0], [1, 0, 0, 1, 1, 1, 1, 1]] ∧
  (∀ p1 p2 tri : Nat, p1 ≤ 15 → p2 ≤ 15 → tri ≤ 15 →
    mixLevel p1 p2 tri =
      (if p1 + p2 = 0 then 0 else 95.88 / (8128 / ((p1 : Rat) + p2) + 100)) +
        (if tri = 0 then 0 else 159.79 / (1 / ((tri : Rat) / 8227) + 100)) ∧
    0 ≤ mixLevel p1 p2 tri ∧ mixLevel p1 p2 tri < 1 ∧ (mixLevel p1 p2 tri = 0 ↔ p1 = 0 ∧ p2 = 0 ∧ tri = 0)) ∧
  (∀ (sp : SamplePath) (n k : Nat) (levels : List Rat), 1 ≤ n → sp.cycles = 0 → sp.decimate = false →
    sp.writePos < Config.ringLen →
    let q := levels.foldl (fun r x => r.step n x) sp
    (levels.length = 2 * n * k → q.writePos = (sp.writePos + k) % Config.ringLen ∧ q.cycles = 0 ∧ q.decimate = false) ∧
    (levels.length < 2 * n → q.writePos = sp.writePos ∧ q.ring = sp.ring)) ∧
  Config.samplePeriod 44100 = 20

/-- A read of 0x4015 returns the three length counters' states in bits 2 to 0 and the frame interrupt in bit 6, and
clears the latter and nothing else (rules R92, R462; the other bits rest on the decision D50 of the spec). -/
def Obligations.ApuStatusRead : Prop :=
  ∀ s : State, ∃ v t, s.busRead 0x4015 = .ok (v, t) ∧ t = { s with apu := { s.apu with frameIrq := false } } ∧
    v.toNat = (if s.apu.pulse1.length.counter = 0 then 0 else 1) + (if s.apu.pulse2.length.counter = 0 then 0 else 2) +
      (if s.apu.triangle.length.counter = 0 then 0 else 4) + (if s.apu.frameIrq then 64 else 0)

/-! ## Controller and host -/

/-- The controller: the write that lowers the latch takes the host's next pair of bytes; nine reads of each port then
return its eight bits, least significant first, and 0 (rules R502, R503; that 0 enters is the spec's decision D45). -/
def Obligations.ControllerShiftsItsBits : Prop :=
  ∀ (s : State) (d b1 b2 : Byte) (rest : List (Byte × Byte)), s.ctl.latch = true → s.ctl.answers = (b1, b2) :: rest →
    d.getLsbD 0 = false →
    ∃ t t1 t2, s.busWrite 0x4016 d = .ok t ∧ t.ctl.answers = rest ∧ t.ctl.latch = false ∧
      State.readTimes 0x4016 9 t = .ok ((List.range 9).map fun k => BitVec.ofNat 8 (b1.getLsbD k).toNat, t1) ∧
      State.readTimes 0x4017 9 t = .ok ((List.range 9).map fun k => BitVec.ofNat 8 (b2.getLsbD k).toNat, t2)

/-- construct accepts exactly the sizes of rule R523 and then gives the power-on state of its cartridge, its power-on
record and its audio parameters, with reset pending (rules R4, R510, R523, R527, R571). -/
def Obligations.ConstructChecksTheSizes : Prop :=
  ∀ (c : Cartridge) (po : PowerOn) (audio : AudioParams),
    (c.prgRomLen ≠ 0 ∧ c.prgRomLen % 16384 = 0 ∧ c.chrRomLen % 8192 = 0 ∧ (c.prgRamLen = 0 ∨ c.prgRamLen = 8192) →
      State.construct c po audio = .ok (State.powerOn c po audio) ∧
        (State.powerOn c po audio).cpu.pendingReset = true ∧ (State.powerOn c po audio).cart = c ∧
        (State.powerOn c po audio).cpu.regs = ⟨po.a, po.x, po.y, po.s, po.pc, po.p⟩ ∧
        (State.powerOn c po audio).ram = po.ram ∧ (State.powerOn c po audio).apu.params = audio) ∧
    (¬(c.prgRomLen ≠ 0 ∧ c.prgRomLen % 16384 = 0 ∧ c.chrRomLen % 8192 = 0 ∧ (c.prgRamLen = 0 ∨ c.prgRamLen = 8192)) →
      State.construct c po audio = .error .cartridgeSize)
end

