-- ==== Sys2Proof/Laws/Apu.lean ====
section
/-! SUPPORT. What one APU step does to each unit of the channels (rule R423), and what no step and no write changes. -/

namespace Sys2Proof.Machine

/-! ## The parameters stay (rules R4, R434) -/

@[simp] theorem Apu.frameCounterStep_params (a : Apu) : a.frameCounterStep.params = a.params := rfl
@[simp] theorem Apu.quarterSteps_params (a : Apu) : a.quarterSteps.params = a.params := rfl
@[simp] theorem Apu.halfSteps_params (a : Apu) : a.halfSteps.params = a.params := rfl

@[simp] theorem Apu.timerSteps_params (a : Apu) : a.timerSteps.params = a.params := by
  unfold Apu.timerSteps; dsimp only; split <;> rfl

@[simp] theorem Apu.step_params (a : Apu) : a.step.params = a.params := by
  unfold Apu.step
  dsimp only
  split <;> split <;> simp

@[simp] theorem Apu.write_params (a : Apu) (index : Nat) (d : Byte) : (a.write index d).params = a.params := by
  unfold Apu.write; split <;> rfl

/-! ## Only the sample step touches the sample path (rule R423) -/

@[simp] theorem Apu.frameCounterStep_sample (a : Apu) : a.frameCounterStep.sample = a.sample := rfl
@[simp] theorem Apu.quarterSteps_sample (a : Apu) : a.quarterSteps.sample = a.sample := rfl
@[simp] theorem Apu.halfSteps_sample (a : Apu) : a.halfSteps.sample = a.sample := rfl

@[simp] theorem Apu.timerSteps_sample (a : Apu) : a.timerSteps.sample = a.sample := by
  unfold Apu.timerSteps; dsimp only; split <;> rfl

/-! ## One step, unit by unit -/

/-- A pulse channel after one step: `timers` when its timer is stepped, `quarter` and `half` the frame pulses. -/
def Pulse.after (p : Pulse) (timers quarter half : Bool) : Pulse :=
  let p := if timers then p.timerStep else p
  let p := if quarter then { p with env := p.env.step } else p
  if half then Pulse.sweepStep { p with length := p.length.step } else p

/-- The triangle channel after one step. -/
def Triangle.after (t : Triangle) (quarter half : Bool) : Triangle :=
  let t := t.timerStep
  let t := if quarter then { t with linear := t.linear.step } else t
  if half then { t with length := t.length.step } else t

theorem Apu.timerSteps_units (a : Apu) :
    a.timerSteps.pulse1 = (if a.phase then a.pulse1.timerStep else a.pulse1) ∧
      a.timerSteps.pulse2 = (if a.phase then a.pulse2.timerStep else a.pulse2) ∧
      a.timerSteps.triangle = a.triangle.timerStep ∧ a.timerSteps.phase = !a.phase ∧
      a.timerSteps.count = a.count ∧ a.timerSteps.mode = a.mode := by
  unfold Apu.timerSteps
  dsimp only
  generalize a.phase = ph
  cases ph <;> exact ⟨rfl, rfl, rfl, rfl, rfl, rfl⟩

/-- The frame pulses of a step, from the count before it. -/
theorem Apu.pulses_before {a : Apu} (h : a.count + 1 ≤ a.mode.wrap) :
    a.frameCounterStep.timerSteps.half = (decide (a.count + 1 = 14913) || decide (a.count + 2 = a.mode.wrap)) ∧
      a.frameCounterStep.timerSteps.quarter =
        (decide (a.count + 1 = 7457) || decide (a.count + 1 = 22371) ||
          (decide (a.count + 1 = 14913) || decide (a.count + 2 = a.mode.wrap))) := by
  obtain ⟨-, -, -, -, hc, hm⟩ := a.frameCounterStep.timerSteps_units
  have hc' : a.frameCounterStep.timerSteps.count = a.nextCount := hc
  have hm' : a.frameCounterStep.timerSteps.mode = a.mode := hm
  have hw : a.mode.wrap = 29830 ∨ a.mode.wrap = 37282 := by cases a.mode <;> simp [FrameMode.wrap]
  unfold Apu.nextCount at hc'
  unfold Apu.half Apu.quarter
  rw [hc', hm']
  split <;> constructor <;> rw [Bool.eq_iff_iff] <;> simp only [Bool.or_eq_true, decide_eq_true_eq] <;> omega

/-- One step, unit by unit. -/
theorem Apu.step_units (a : Apu) :
    let c := a.frameCounterStep.timerSteps
    a.step.pulse1 = a.pulse1.after a.phase c.quarter c.half ∧ a.step.pulse2 = a.pulse2.after a.phase c.quarter c.half ∧
      a.step.triangle = a.triangle.after c.quarter c.half ∧ a.step.phase = !a.phase := by
  intro c
  obtain ⟨e1, e2, e3, e4, -, -⟩ := a.frameCounterStep.timerSteps_units
  have hc : c.quarterSteps.half = c.half := rfl
  unfold Apu.step
  change _ = Pulse.after a.frameCounterStep.pulse1 a.frameCounterStep.phase _ _ ∧
    _ = Pulse.after a.frameCounterStep.pulse2 a.frameCounterStep.phase _ _ ∧
    _ = Triangle.after a.frameCounterStep.triangle _ _ ∧ _ = !a.frameCounterStep.phase
  simp only [Pulse.after, Triangle.after, ← e1, ← e2, ← e3, ← e4]
  change (if (if c.quarter then c.quarterSteps else c).half then _ else _ : Apu).pulse1 = _ ∧
    (if (if c.quarter then c.quarterSteps else c).half then _ else _ : Apu).pulse2 = _ ∧
    (if (if c.quarter then c.quarterSteps else c).half then _ else _ : Apu).triangle = _ ∧
    (if (if c.quarter then c.quarterSteps else c).half then _ else _ : Apu).phase = _
  cases hq : c.quarter <;> cases hh : c.half <;> simp [hc, hh] <;> exact ⟨rfl, rfl, rfl, rfl⟩

end Sys2Proof.Machine
end

