-- ==== Sys2Proof/Laws/Cells.lean ====
section
/-! SUPPORT. The laws of sparse memories: a read after a write, and the canonical form kept by every write. -/

namespace Sys2Proof.Machine

section Generic

variable {α : Type} [DecidableEq α] {d x : α}

theorem Cells.wfFrom_mono {lo lo' : Nat} {l : List (Nat × α)} (h : Cells.wfFrom d lo l = true) (hl : lo' ≤ lo) :
    Cells.wfFrom d lo' l = true := by
  cases l with
  | nil => rfl
  | cons c l =>
    simp only [Cells.wfFrom, Bool.and_eq_true, decide_eq_true_eq] at h ⊢
    exact ⟨⟨hl.trans h.1.1, h.1.2⟩, h.2⟩

theorem Cells.read_below {lo k : Nat} {l : List (Nat × α)} (h : Cells.wfFrom d lo l = true) (hk : k < lo) :
    Cells.read d l k = d := by
  induction l generalizing lo with
  | nil => rfl
  | cons c l ih =>
    simp only [Cells.wfFrom, Bool.and_eq_true, decide_eq_true_eq] at h
    have : c.1 ≠ k := by omega
    simp only [Cells.read, this, if_false]
    exact ih h.2 (by omega)

theorem Cells.read_write_other {k k' : Nat} (l : List (Nat × α)) (h : k' ≠ k) :
    Cells.read d (Cells.write d l k x) k' = Cells.read d l k' := by
  induction l with
  | nil =>
    unfold Cells.write
    split
    · rfl
    · simp [Cells.read, Ne.symm h]
  | cons c l ih =>
    unfold Cells.write
    split
    · split
      · rfl
      · simp [Cells.read, Ne.symm h]
    · split
      · rename_i hk
        have : c.1 ≠ k' := by omega
        split <;> simp [Cells.read, this, Ne.symm h]
      · simp [Cells.read, ih]

theorem Cells.read_write_same {lo k : Nat} {l : List (Nat × α)} (h : Cells.wfFrom d lo l = true) :
    Cells.read d (Cells.write d l k x) k = x := by
  induction l generalizing lo with
  | nil =>
    unfold Cells.write
    split
    · rename_i hx; simp [Cells.read, hx]
    · simp [Cells.read]
  | cons c l ih =>
    simp only [Cells.wfFrom, Bool.and_eq_true, decide_eq_true_eq] at h
    unfold Cells.write
    split
    · rename_i hk
      split
      · rename_i hx
        have : c.1 ≠ k := by omega
        simp only [Cells.read, this, if_false]
        rw [Cells.read_below h.2 (by omega), hx]
      · simp [Cells.read]
    · split
      · rename_i hk
        split
        · rename_i hx; rw [Cells.read_below h.2 (by omega), hx]
        · simp [Cells.read]
      · rename_i h1 h2
        have : c.1 ≠ k := fun e => h2 e.symm
        simp only [Cells.read, this, if_false]
        exact ih h.2

theorem Cells.wfFrom_write {lo k : Nat} {l : List (Nat × α)} (h : Cells.wfFrom d lo l = true) (hk : lo ≤ k) :
    Cells.wfFrom d lo (Cells.write d l k x) = true := by
  induction l generalizing lo with
  | nil =>
    unfold Cells.write
    split
    · rfl
    · rename_i hx; simp [Cells.wfFrom, hk, hx]
  | cons c l ih =>
    have h0 := h
    simp only [Cells.wfFrom, Bool.and_eq_true, decide_eq_true_eq] at h
    unfold Cells.write
    split
    · split
      · exact h0
      · rename_i hlt hx
        simp only [Cells.wfFrom, Bool.and_eq_true, decide_eq_true_eq]
        exact ⟨⟨hk, hx⟩, ⟨by omega, h.1.2⟩, h.2⟩
    · split
      · rename_i hkc
        split
        · exact Cells.wfFrom_mono h.2 (by omega)
        · rename_i hx
          simp only [Cells.wfFrom, Bool.and_eq_true, decide_eq_true_eq]
          exact ⟨⟨hk, hx⟩, hkc ▸ h.2⟩
      · simp only [Cells.wfFrom, Bool.and_eq_true, decide_eq_true_eq]
        exact ⟨h.1, ih h.2 (by omega)⟩

theorem Cells.below_write {n k : Nat} {l : List (Nat × α)} (h : Cells.below n l = true) (hk : k < n) :
    Cells.below n (Cells.write d l k x) = true := by
  have key : ∀ c ∈ Cells.write d l k x, c ∈ l ∨ c.1 = k := by
    clear h
    induction l with
    | nil =>
      unfold Cells.write
      split
      · simp
      · simp
    | cons c l ih =>
      unfold Cells.write
      split
      · split
        · intro e he; exact .inl he
        · intro e he
          rcases List.mem_cons.1 he with rfl | he
          · exact .inr rfl
          · exact .inl he
      · split
        · split
          · intro e he; exact .inl (List.mem_cons_of_mem _ he)
          · intro e he
            rcases List.mem_cons.1 he with rfl | he
            · exact .inr rfl
            · exact .inl (List.mem_cons_of_mem _ he)
        · intro e he
          rcases List.mem_cons.1 he with rfl | he
          · exact .inl (List.mem_cons_self ..)
          · rcases ih e he with h | h
            · exact .inl (List.mem_cons_of_mem _ h)
            · exact .inr h
  unfold Cells.below at *
  rw [List.all_eq_true] at *
  intro e he
  rcases key e he with h' | h'
  · exact h e h'
  · simp [h', hk]

end Generic

/-! ## Byte memories -/

theorem Memory.read_write_same {m : Memory} (h : m.wf = true) (k : Nat) (v : Byte) : (m.write k v).read k = v :=
  Cells.read_write_same h

theorem Memory.read_write_other (m : Memory) {k k' : Nat} (h : k' ≠ k) (v : Byte) : (m.write k v).read k' = m.read k' :=
  Cells.read_write_other m h

theorem Memory.wf_write {m : Memory} (h : m.wf = true) (k : Nat) (v : Byte) : (m.write k v).wf = true :=
  Cells.wfFrom_write h (Nat.zero_le _)

theorem Memory.wfSize_wf {n : Nat} {m : Memory} (h : m.wfSize n = true) : m.wf = true := by
  simp only [Memory.wfSize, Bool.and_eq_true] at h; exact h.1

theorem Memory.wfSize_write {n : Nat} {m : Memory} (h : m.wfSize n = true) {k : Nat} (hk : k < n) (v : Byte) :
    (m.write k v).wfSize n = true := by
  simp only [Memory.wfSize, Bool.and_eq_true] at *
  exact ⟨Memory.wf_write h.1 k v, Cells.below_write h.2 hk⟩

theorem Memory.wfSize_writeBytes {n : Nat} (vs : List Byte) {m : Memory} (h : m.wfSize n = true) {k : Nat}
    (hk : k + vs.length ≤ n) : (m.writeBytes k vs).wfSize n = true := by
  induction vs generalizing m k with
  | nil => exact h
  | cons v vs ih =>
    simp only [List.length_cons] at hk
    exact ih (Memory.wfSize_write h (by omega) v) (by omega)

end Sys2Proof.Machine
end

