-- ==== Sys2Proof/Laws/Bus.lean ====
section
/-! SUPPORT. The laws of the CPU address map: what an address selects, what a read of a byte gives after a write. -/

namespace Sys2Proof.Machine

theorem zeroPage_toNat (b : Byte) : (zeroPage b).toNat = b.toNat := by
  unfold zeroPage; simp only [BitVec.toNat_setWidth]; omega

@[simp] theorem cpuTarget_zeroPage (b : Byte) : cpuTarget (zeroPage b) = .ram b.toNat := by
  have hb := b.isLt
  unfold cpuTarget
  simp only [zeroPage_toNat]
  rw [if_pos (by omega), Nat.mod_eq_of_lt (by omega)]

theorem joinBytes_toNat (hi lo : Byte) : (joinBytes hi lo).toNat = hi.toNat * 256 + lo.toNat := by
  unfold joinBytes
  have := lo.isLt
  simp only [BitVec.toNat_append, Nat.shiftLeft_eq]
  rw [← Nat.shiftLeft_eq, ← Nat.shiftLeft_add_eq_or_of_lt lo.isLt, Nat.shiftLeft_eq]

theorem hiByte_toNat (a : Word) : (hiByte a).toNat = a.toNat / 256 := by
  unfold hiByte
  have := a.isLt
  rw [BitVec.extractLsb'_toNat, Nat.shiftRight_eq_div_pow]; omega

theorem loByte_toNat (a : Word) : (loByte a).toNat = a.toNat % 256 := by
  unfold loByte
  rw [BitVec.extractLsb'_toNat, Nat.shiftRight_eq_div_pow]; omega

@[simp] theorem hiByte_joinBytes (h l : Byte) : hiByte (joinBytes h l) = h := by
  apply BitVec.eq_of_toNat_eq
  rw [hiByte_toNat, joinBytes_toNat]; have := l.isLt; omega

@[simp] theorem loByte_joinBytes (h l : Byte) : loByte (joinBytes h l) = l := by
  apply BitVec.eq_of_toNat_eq
  rw [loByte_toNat, joinBytes_toNat]; have := l.isLt; omega

@[simp] theorem joinBytes_hiByte_loByte (a : Word) : joinBytes (hiByte a) (loByte a) = a := by
  apply BitVec.eq_of_toNat_eq
  rw [joinBytes_toNat, hiByte_toNat, loByte_toNat]; omega

theorem stackAddr_toNat (s : Byte) : (stackAddr s).toNat = 256 + s.toNat := by
  unfold stackAddr; rw [joinBytes_toNat]; rfl

@[simp] theorem cpuTarget_stackAddr (s : Byte) : cpuTarget (stackAddr s) = .ram (256 + s.toNat) := by
  have hs := s.isLt
  unfold cpuTarget
  simp only [stackAddr_toNat]
  rw [if_pos (by omega), Nat.mod_eq_of_lt (by omega)]

@[simp] theorem State.readable_zeroPage (s : State) (b : Byte) : s.readable (zeroPage b) = true := by
  simp [State.readable]

@[simp] theorem State.readable_stack (s : State) (b : Byte) : s.readable (stackAddr b) = true := by
  simp [State.readable]

@[simp] theorem State.writable_stack (s : State) (b : Byte) : s.writable (stackAddr b) = true := by
  simp [State.writable]

/-- The two addresses of a vector lie in PRG-ROM (rule R114). -/
theorem State.readable_vector (s : State) (k : IntKind) :
    s.readable (vectorOf k) = true ∧ s.readable (vectorOf k + 1) = true := by
  cases k <;> exact ⟨rfl, rfl⟩

@[simp] theorem State.peek_zeroPage (s : State) (b : Byte) : s.peek (zeroPage b) = some (s.ram.read b.toNat) := by
  simp [State.peek]

@[simp] theorem State.peek_stack (s : State) (b : Byte) : s.peek (stackAddr b) = some (s.ram.read (256 + b.toNat)) := by
  simp [State.peek]

theorem State.peek_congr {s t : State} (h1 : t.ram = s.ram) (h2 : t.prgRam = s.prgRam) (h3 : t.cart = s.cart) (a : Word) :
    t.peek a = s.peek a := by
  unfold State.peek; rw [h1, h2, h3]

theorem State.readable_congr {s t : State} (h : t.cart = s.cart) (a : Word) : t.readable a = s.readable a := by
  unfold State.readable; rw [h]

theorem State.writable_congr {s t : State} (h : t.cart = s.cart) (a : Word) : t.writable a = s.writable a := by
  unfold State.writable; rw [h]

theorem State.cellOf_congr {s t : State} (h : t.cart = s.cart) (a : Word) : t.cellOf a = s.cellOf a := by
  unfold State.cellOf; rw [h]

theorem State.zeroPagePointer_congr {s t : State} (h : t.ram = s.ram) (b : Byte) :
    t.zeroPagePointer b = s.zeroPagePointer b := by
  unfold State.zeroPagePointer; rw [h]

/-- An address a byte can be read from is readable. -/
theorem State.readable_of_peek {s : State} {a : Word} {v : Byte} (h : s.peek a = some v) : s.readable a = true := by
  unfold State.peek at h
  unfold State.readable
  cases hT : cpuTarget a with
  | prgRam k =>
    simp only [hT] at h
    by_cases hl : s.cart.prgRamLen = 0
    · simp [hl] at h
    · simp [hl]
  | _ => simp_all

/-! ## A byte of memory after a write -/

/-- RAM and PRG-RAM after a write of `v` at `a`, everything else equal. -/
structure Stored (s t : State) (a : Word) (v : Byte) : Prop where
  ram : t.ram = match cpuTarget a with
    | .ram k => s.ram.write k v
    | _ => s.ram
  prgRam : t.prgRam = match cpuTarget a with
    | .prgRam k => s.prgRam.write (k % s.cart.prgRamLen) v
    | _ => s.prgRam
  cart : t.cart = s.cart

/-- A write leaves every byte outside its cell as it was. -/
theorem Stored.peek_other {s t : State} {a b : Word} {v : Byte} (h : Stored s t a v) (hb : s.cellOf b ≠ s.cellOf a) :
    t.peek b = s.peek b := by
  unfold State.cellOf at hb
  unfold State.peek
  rw [h.ram, h.prgRam, h.cart]
  cases hB : cpuTarget b <;> simp only [hB] at hb ⊢
  case ram k =>
    cases hA : cpuTarget a <;> simp only [hA] at hb ⊢
    rw [Memory.read_write_other]; exact fun e => hb (by rw [e])
  case prgRam k =>
    cases hA : cpuTarget a <;> simp only [hA] at hb ⊢
    rw [Memory.read_write_other]; exact fun e => hb (by rw [e])

/-- A write to memory is read back at every address of its cell. -/
theorem Stored.peek_same {s t : State} {a b : Word} {v : Byte} (h : Stored s t a v) (hr : s.ram.wf = true)
    (hp : s.prgRam.wf = true) (hw : s.writable a = true) (hm : (s.peek a).isSome = true)
    (hb : s.cellOf b = s.cellOf a) : t.peek b = some v := by
  unfold State.cellOf at hb
  unfold State.writable at hw
  unfold State.peek at hm ⊢
  rw [h.ram, h.prgRam, h.cart]
  cases hA : cpuTarget a <;> simp only [hA] at hb hm hw ⊢ <;> try (exfalso; simp at hm; done)
  case ram k =>
    cases hB : cpuTarget b <;> simp only [hB] at hb ⊢ <;> try (exfalso; simp at hb; done)
    injection hb with hb; rw [hb, Memory.read_write_same hr]
  case prgRam k =>
    cases hB : cpuTarget b <;> simp only [hB] at hb ⊢ <;> try (exfalso; simp at hb; done)
    injection hb with hb
    have hl : s.cart.prgRamLen ≠ 0 := by simpa using hw
    simp only [hl, if_false]
    rw [hb, Memory.read_write_same hp]
  case prgRom k => cases hw

theorem Stored.wf {s t : State} {a : Word} {v : Byte} (h : Stored s t a v) (hr : s.ram.wf = true)
    (hp : s.prgRam.wf = true) : t.ram.wf = true ∧ t.prgRam.wf = true := by
  rw [h.ram, h.prgRam]
  cases cpuTarget a <;> first | exact ⟨hr, hp⟩ | exact ⟨Memory.wf_write hr _ _, hp⟩ | exact ⟨hr, Memory.wf_write hp _ _⟩

end Sys2Proof.Machine
end

