-- ==== Sys2Proof/Laws/Ppu.lean ====
section
/-! SUPPORT. What one dot of the PPU keeps: every sub-step but the register access leaves the CPU-visible registers and
memories alone, and a step faults only where the spec says so. -/

namespace Sys2Proof.Machine

/-- The part of the PPU that only register accesses change. -/
structure Ppu.Kept (p q : Ppu) : Prop where
  ctrl : q.ctrl = p.ctrl
  mask : q.mask = p.mask
  oam : q.oam = p.oam
  palette : q.palette = p.palette
  oamAddr : q.oamAddr = p.oamAddr
  t : q.t = p.t
  fineX : q.fineX = p.fineX
  w : q.w = p.w
  access : q.access = p.access
  vramWr : q.vramWr = p.vramWr
  dataBuffer : q.dataBuffer = p.dataBuffer
  fillPending : q.fillPending = p.fillPending
  cpuReg : q.cpuReg = p.cpuReg
  cpuData : q.cpuData = p.cpuData
  cpuRw : q.cpuRw = p.cpuRw
  sprite0Hit : q.sprite0Hit = p.sprite0Hit

theorem Ppu.Kept.refl (p : Ppu) : p.Kept p := by constructor <;> rfl

theorem Ppu.Kept.trans {p q r : Ppu} (h : p.Kept q) (k : q.Kept r) : p.Kept r := by
  constructor
  · exact k.ctrl.trans h.ctrl
  · exact k.mask.trans h.mask
  · exact k.oam.trans h.oam
  · exact k.palette.trans h.palette
  · exact k.oamAddr.trans h.oamAddr
  · exact k.t.trans h.t
  · exact k.fineX.trans h.fineX
  · exact k.w.trans h.w
  · exact k.access.trans h.access
  · exact k.vramWr.trans h.vramWr
  · exact k.dataBuffer.trans h.dataBuffer
  · exact k.fillPending.trans h.fillPending
  · exact k.cpuReg.trans h.cpuReg
  · exact k.cpuData.trans h.cpuData
  · exact k.cpuRw.trans h.cpuRw
  · exact k.sprite0Hit.trans h.sprite0Hit

theorem Ppu.reload_kept (p : Ppu) : p.Kept p.reload := by
  unfold Ppu.reload; split <;> constructor <;> rfl

theorem Ppu.emitPixel_kept (p : Ppu) : p.Kept p.emitPixel := by
  unfold Ppu.emitPixel; split <;> constructor <;> rfl

theorem Ppu.fetchBackground_kept (p : Ppu) : p.Kept p.fetchBackground := by
  unfold Ppu.fetchBackground
  split
  · split <;> constructor <;> rfl
  · exact .refl p

theorem Ppu.shiftBackground_kept (p : Ppu) : p.Kept p.shiftBackground := by
  unfold Ppu.shiftBackground; split <;> constructor <;> rfl

theorem Ppu.shiftSprites_kept (p : Ppu) : p.Kept p.shiftSprites := by
  unfold Ppu.shiftSprites; split <;> constructor <;> rfl

theorem Ppu.scrollX_kept (p : Ppu) : p.Kept p.scrollX := by
  unfold Ppu.scrollX; split <;> constructor <;> rfl

theorem Ppu.scrollY_kept (p : Ppu) : p.Kept p.scrollY := by
  unfold Ppu.scrollY; split <;> constructor <;> rfl

theorem Ppu.scrollCopyX_kept (p : Ppu) : p.Kept p.scrollCopyX := by
  unfold Ppu.scrollCopyX; split <;> constructor <;> rfl

theorem Ppu.scrollCopyY_kept (p : Ppu) : p.Kept p.scrollCopyY := by
  unfold Ppu.scrollCopyY; split <;> constructor <;> rfl

theorem Ppu.updateScroll_kept (p : Ppu) : p.Kept p.updateScroll :=
  p.scrollX_kept.trans (p.scrollX.scrollY_kept.trans
    (p.scrollX.scrollY.scrollCopyX_kept.trans p.scrollX.scrollY.scrollCopyX.scrollCopyY_kept))

theorem Ppu.scanSprite_kept (p : Ppu) (k : Nat) : p.Kept (p.scanSprite k) := by
  unfold Ppu.scanSprite
  generalize spriteInRange _ _ _ = inRange
  cases inRange
  · exact .refl p
  · by_cases h : p.secCount < 8 <;> simp only [h, if_true, if_false] <;> constructor <;> rfl

theorem Ppu.scanSprites_kept (ks : List Nat) (p : Ppu) : p.Kept (ks.foldl Ppu.scanSprite p) := by
  induction ks generalizing p with
  | nil => exact .refl p
  | cons k ks ih => exact (p.scanSprite_kept k).trans (ih (p.scanSprite k))

theorem Ppu.evaluateSprites_kept (p : Ppu) : p.Kept p.evaluateSprites := by
  unfold Ppu.evaluateSprites
  split
  · constructor <;> rfl
  · split
    · exact p.scanSprites_kept (List.range 64)
    · exact .refl p

theorem Ppu.vblankEdges_kept (p : Ppu) : p.Kept p.vblankEdges := by
  unfold Ppu.vblankEdges
  split
  · constructor <;> rfl
  · split <;> constructor <;> rfl

theorem Ppu.advanceCounters_kept (p : Ppu) : p.Kept p.advanceCounters := by
  unfold Ppu.advanceCounters
  split
  · split <;> constructor <;> rfl
  · constructor <;> rfl

/-- A sprite fetch faults only for an 8×16 sprite, and else keeps. -/
theorem Ppu.fetchSprite_cases (p : Ppu) :
    (∃ q, p.fetchSprite = .ok q ∧ p.Kept q) ∨
      (p.ctrl.spriteHeight16 = true ∧ p.fetchSprite = .error .unmodelled8x16) := by
  unfold Ppu.fetchSprite
  split
  · dsimp only
    split
    · split
      · split
        · exact .inr ⟨‹_›, rfl⟩
        · exact .inl ⟨_, rfl, by constructor <;> rfl⟩
      · exact .inl ⟨_, rfl, by constructor <;> rfl⟩
      · exact .inl ⟨_, rfl, by constructor <;> rfl⟩
      · split <;> exact .inl ⟨_, rfl, by constructor <;> rfl⟩
      · exact .inl ⟨_, rfl, .refl p⟩
    · split
      · exact .inl ⟨_, rfl, by constructor <;> rfl⟩
      · exact .inl ⟨_, rfl, .refl p⟩
  · exact .inl ⟨_, rfl, .refl p⟩

theorem Ppu.render_cases (p : Ppu) :
    (∃ q, p.render = .ok q ∧ p.Kept q) ∨ (p.ctrl.spriteHeight16 = true ∧ p.render = .error .unmodelled8x16) := by
  have h0 : p.Kept p.reload.emitPixel.fetchBackground :=
    p.reload_kept.trans (p.reload.emitPixel_kept.trans p.reload.emitPixel.fetchBackground_kept)
  unfold Ppu.render
  obtain ⟨q, hq, hk⟩ | ⟨hc, he⟩ := p.reload.emitPixel.fetchBackground.fetchSprite_cases
  · rw [hq]
    exact .inl ⟨_, rfl, h0.trans (hk.trans (q.updateScroll_kept.trans (q.updateScroll.evaluateSprites_kept.trans
      (q.updateScroll.evaluateSprites.shiftBackground_kept.trans
        q.updateScroll.evaluateSprites.shiftBackground.shiftSprites_kept))))⟩
  · rw [he]
    exact .inr ⟨h0.ctrl ▸ hc, rfl⟩

/-- One dot: the register access, then sub-steps that keep; it faults only for an 8×16 sprite with rendering on. -/
theorem Ppu.step_cases (p : Ppu) :
    (∃ q, p.step = .ok q ∧ p.cpuAccess.Kept q) ∨
      (p.cpuAccess.ctrl.spriteHeight16 = true ∧ p.cpuAccess.renderingEnabled = true ∧
        p.step = .error .unmodelled8x16) := by
  unfold Ppu.step
  dsimp only
  split
  · rename_i heq
    split at heq
    · obtain ⟨q, hq, hk⟩ | ⟨hc, he⟩ := p.cpuAccess.render_cases
      · rw [hq] at heq; cases heq
      · rw [he] at heq; cases heq
        exact .inr ⟨hc, ‹_›, rfl⟩
    · cases heq
  · rename_i q heq
    refine .inl ⟨_, rfl, ?_⟩
    have hk : p.cpuAccess.Kept q := by
      split at heq
      · obtain ⟨q', hq, hk⟩ | ⟨hc, he⟩ := p.cpuAccess.render_cases
        · rw [hq] at heq; cases heq; exact hk
        · rw [he] at heq; cases heq
      · cases heq; exact .refl _
    exact hk.trans (q.vblankEdges_kept.trans q.vblankEdges.advanceCounters_kept)

theorem nametable_joinScroll (fy : BitVec 3) (nt : BitVec 2) (cy cx : BitVec 5) :
    nametable (joinScroll fy nt cy cx) = nt := by
  apply BitVec.eq_of_getLsbD_eq
  intro k hk
  have h1 : ¬ 10 + k < 5 := by omega
  have h2 : 10 + k - 5 - 5 = k := by omega
  have h3 : ¬ 5 + k < 5 := by omega
  simp only [nametable, joinScroll, BitVec.getLsbD_extractLsb', BitVec.getLsbD_append, hk, decide_true, Bool.true_and]
  rw [if_neg h1, if_neg (by omega), h2, if_pos hk]

end Sys2Proof.Machine
end

