-- ==== Sys2Proof/Laws/Harness.lean ====
section
/-! SUPPORT. What a bus cycle of the CPU can do: the one place where the proofs open the system tick (rule R490). -/

namespace Sys2Proof.Machine

@[simp] theorem andThen_ok (s : State) (f : State → Run) : andThen (.ok s) f = f s := rfl
@[simp] theorem andThen_error (e : Fault) (f : State → Run) : andThen (.error e) f = .error e := rfl

theorem andThen_eq_ok {r : Run} {f : State → Run} {t : State} (h : andThen r f = .ok t) :
    ∃ s, r = .ok s ∧ f s = .ok t := by
  cases r with
  | error e => cases h
  | ok s => exact ⟨s, rfl, h⟩

/-! ## Three dots -/

/-- The registers and memories of the PPU that only register accesses change, whatever the strobes do. -/
structure Ppu.Held (p q : Ppu) : Prop where
  ctrl : q.ctrl = p.ctrl
  mask : q.mask = p.mask
  oam : q.oam = p.oam
  palette : q.palette = p.palette
  oamAddr : q.oamAddr = p.oamAddr
  t : q.t = p.t
  fineX : q.fineX = p.fineX
  w : q.w = p.w
  cpuReg : q.cpuReg = p.cpuReg
  cpuData : q.cpuData = p.cpuData
  cpuRw : q.cpuRw = p.cpuRw

theorem Ppu.Kept.held {p q : Ppu} (h : p.Kept q) : p.Held q :=
  ⟨h.ctrl, h.mask, h.oam, h.palette, h.oamAddr, h.t, h.fineX, h.w, h.cpuReg, h.cpuData, h.cpuRw⟩

theorem Ppu.Held.trans {p q r : Ppu} (h : p.Held q) (k : q.Held r) : p.Held r :=
  ⟨k.ctrl.trans h.ctrl, k.mask.trans h.mask, k.oam.trans h.oam, k.palette.trans h.palette,
    k.oamAddr.trans h.oamAddr, k.t.trans h.t, k.fineX.trans h.fineX, k.w.trans h.w, k.cpuReg.trans h.cpuReg,
    k.cpuData.trans h.cpuData, k.cpuRw.trans h.cpuRw⟩

theorem Ppu.endStrobes_held (p : Ppu) : p.Held p.endStrobes := by constructor <;> rfl

/-- With no access waiting, the register access of a step is the end of the strobes. -/
theorem Ppu.cpuAccess_idle {p : Ppu} (h : p.access = false) : p.cpuAccess = p.endStrobes := by
  have : p.endStrobes.access = false := h
  simp [Ppu.cpuAccess, this]

theorem Ppu.cpuAccess_busy {p : Ppu} (h : p.access = true) :
    p.cpuAccess = { p.endStrobes with access := false }.registerAccess := by
  have : p.endStrobes.access = true := h
  simp [Ppu.cpuAccess, this]

theorem Ppu.registerAccess_access (p : Ppu) : p.registerAccess.access = p.access := by
  unfold Ppu.registerAccess
  split <;>
    first
    | rfl
    | (unfold Ppu.writeScroll; split <;> rfl)
    | (unfold Ppu.writeAddr; split <;> rfl)
    | (unfold Ppu.writeData; dsimp only; split <;> rfl)

theorem Ppu.cpuAccess_access (p : Ppu) : p.cpuAccess.access = false := by
  cases h : p.access with
  | false => rw [Ppu.cpuAccess_idle h]; exact h
  | true => rw [Ppu.cpuAccess_busy h, Ppu.registerAccess_access]

/-- No 8×16 sprite can be fetched. -/
def Ppu.NoTallSprite (p : Ppu) : Prop := p.ctrl.spriteHeight16 = false ∨ p.renderingEnabled = false

theorem Ppu.Held.noTallSprite {p q : Ppu} (h : p.Held q) (hp : p.NoTallSprite) : q.NoTallSprite := by
  unfold Ppu.NoTallSprite Ppu.renderingEnabled at *
  rw [h.ctrl, h.mask]; exact hp

/-- One dot with its VRAM access served, when its register access asks for no VRAM write. -/
theorem State.ppuStep_ok {s : State} (hc : 0x2000 ≤ s.cart.chrRomLen) (hw : s.ppu.cpuAccess.vramWr = false)
    (hs : s.ppu.cpuAccess.NoTallSprite) :
    ∃ q, s.ppuStep = .ok { s with ppu := q } ∧ s.ppu.cpuAccess.Kept q := by
  obtain ⟨q, hq, hk⟩ | ⟨h1, h2, -⟩ := s.ppu.step_cases
  · have hqw : q.vramWr = false := hk.vramWr.trans hw
    unfold State.ppuStep
    rw [hq]
    cases hr : q.vramRd with
    | false =>
      refine ⟨q, ?_, hk⟩
      simp [State.servePpuRead, State.servePpuWrite, hr, hqw]
    | true =>
      have hread : ∃ d, State.ppuBusRead { s with ppu := q } q.vramAddr = .ok d := by
        unfold State.ppuBusRead
        split
        · split
          · exact ⟨_, rfl⟩
          · rename_i h1 h2; exact absurd (Nat.lt_of_lt_of_le h1 hc) h2
        · exact ⟨_, rfl⟩
      obtain ⟨d, hd⟩ := hread
      refine ⟨{ q with vramData := d }, ?_, ?_⟩
      · simp [State.servePpuRead, State.servePpuWrite, hr, hd, hqw]
      · exact ⟨hk.ctrl, hk.mask, hk.oam, hk.palette, hk.oamAddr, hk.t, hk.fineX, hk.w, hk.access, hk.vramWr,
          hk.dataBuffer, hk.fillPending, hk.cpuReg, hk.cpuData, hk.cpuRw, hk.sprite0Hit⟩
  · rcases hs with h | h
    · rw [h] at h1; cases h1
    · rw [h] at h2; cases h2

/-- Tick step 3, when the register access of its first dot asks for no VRAM write. -/
theorem State.ppuSteps_ok {s : State} (hc : 0x2000 ≤ s.cart.chrRomLen) (hw : s.ppu.cpuAccess.vramWr = false)
    (hs : s.ppu.cpuAccess.NoTallSprite) :
    ∃ q, s.ppuSteps = .ok { s with ppu := q } ∧ s.ppu.cpuAccess.Held q ∧ q.access = false ∧ q.vramWr = false := by
  have idle : ∀ p : Ppu, p.access = false → p.NoTallSprite →
      ∃ q, State.ppuStep { s with ppu := p } = .ok { s with ppu := q } ∧ p.Held q ∧ q.access = false ∧ q.vramWr = false := by
    intro p ha hn
    have he := Ppu.cpuAccess_idle ha
    obtain ⟨q, hq, hk⟩ := State.ppuStep_ok (s := { s with ppu := p }) hc (by rw [he]; rfl)
      (by rw [he]; exact p.endStrobes_held.noTallSprite hn)
    rw [he] at hk
    exact ⟨q, hq, p.endStrobes_held.trans hk.held, hk.access.trans ha, hk.vramWr⟩
  obtain ⟨q1, h1, k1⟩ := State.ppuStep_ok hc hw hs
  have a1 : q1.access = false := k1.access.trans s.ppu.cpuAccess_access
  obtain ⟨q2, h2, k2, a2, -⟩ := idle q1 a1 (k1.held.noTallSprite hs)
  obtain ⟨q3, h3, k3, a3, w3⟩ := idle q2 a2 (k2.noTallSprite (k1.held.noTallSprite hs))
  refine ⟨q3, ?_, k1.held.trans (k2.trans k3), a3, w3⟩
  unfold State.ppuSteps
  rw [h1, andThen_ok, h2, andThen_ok, h3]

theorem Ppu.Held.written {p q : Ppu} (h : p.Held q) : q.written = p.written := by
  unfold Ppu.written; rw [h.ctrl, h.mask, h.oamAddr, h.t, h.fineX]

/-! ## A read -/

/-- What a bus cycle that reads leaves of the state `s` that drove it. -/
structure ReadTick (s t : State) : Prop where
  cpu : ∃ v n p q, t.cpu = { s.cpu with db := v, pendingNmi := n, nmiPrev := p, irqLine := q }
  value : ∀ v, s.peek s.cpu.ab = some v → t.cpu.db = v
  ram : t.ram = s.ram
  prgRam : t.prgRam = s.prgRam
  vram : t.vram = s.vram
  cart : t.cart = s.cart
  fault : t.fault = s.fault
  dma : t.dma = s.dma
  oam : t.ppu.oam = s.ppu.oam
  written : t.ppu.written = s.ppu.written
  palette : t.ppu.palette = s.ppu.palette
  cyc : t.cyc = s.cyc + 1
  safe : t.PpuSafe

/-- The register access of a read asks for no VRAM write and writes none of the CPU-visible memories. -/
theorem Ppu.registerRead_keeps {p : Ppu} (h : p.cpuRw = .read) :
    p.registerAccess.ctrl = p.ctrl ∧ p.registerAccess.mask = p.mask ∧ p.registerAccess.oam = p.oam ∧
      p.registerAccess.written = p.written ∧ p.registerAccess.palette = p.palette ∧
      p.registerAccess.vramWr = p.vramWr := by
  unfold Ppu.registerAccess
  rw [h]
  split <;> first | exact ⟨rfl, rfl, rfl, rfl, rfl, rfl⟩ | contradiction

theorem State.ppuSteps_read {s : State} (hs : s.PpuSafe) (r : BitVec 3) :
    ∃ q, State.ppuSteps { s with ppu := { s.ppu with cpuReg := r, cpuRw := .read, access := true } } =
        .ok { s with ppu := q } ∧
      q.access = false ∧ q.NoTallSprite ∧ q.oam = s.ppu.oam ∧ q.written = s.ppu.written ∧ q.palette = s.ppu.palette := by
  obtain ⟨hc, -, hn⟩ := hs
  set p : Ppu := { s.ppu with cpuReg := r, cpuRw := .read, access := true } with hp
  have hb : p.cpuAccess = { p.endStrobes with access := false }.registerAccess := Ppu.cpuAccess_busy rfl
  obtain ⟨k1, k2, k3, k4, k5, k6⟩ := Ppu.registerRead_keeps (p := { p.endStrobes with access := false }) rfl
  rw [← hb] at k1 k2 k3 k4 k5 k6
  have hn' : p.cpuAccess.NoTallSprite := by
    unfold Ppu.NoTallSprite Ppu.renderingEnabled
    rw [k1, k2]; exact hn
  obtain ⟨q, hq, hk, ha, -⟩ := State.ppuSteps_ok (s := { s with ppu := p }) hc k6 hn'
  exact ⟨q, hq, ha, hk.noTallSprite hn', hk.oam.trans k3, hk.written.trans k4, hk.palette.trans k5⟩

theorem State.ppuSteps_idle {s : State} (hs : s.PpuSafe) :
    ∃ q, s.ppuSteps = .ok { s with ppu := q } ∧
      q.access = false ∧ q.NoTallSprite ∧ q.oam = s.ppu.oam ∧ q.written = s.ppu.written ∧ q.palette = s.ppu.palette := by
  obtain ⟨hc, ha, hn⟩ := hs
  have he := Ppu.cpuAccess_idle ha
  have hn' : s.ppu.cpuAccess.NoTallSprite := by rw [he]; exact s.ppu.endStrobes_held.noTallSprite hn
  obtain ⟨q, hq, hk, ha', -⟩ := State.ppuSteps_ok hc (by rw [he]; rfl) hn'
  rw [he] at hk
  exact ⟨q, hq, ha', hk.noTallSprite (s.ppu.endStrobes_held.noTallSprite hn), hk.oam, hk.written, hk.palette⟩

/-- A completed read, in the state the PPU steps left: the byte, and what its side effect leaves. -/
theorem State.busRead_ok {s : State} {a : Word} (h : s.readable a = true) :
    ∃ v t, s.busRead a = .ok (v, t) ∧ t.cpu = s.cpu ∧ t.ram = s.ram ∧ t.prgRam = s.prgRam ∧ t.vram = s.vram ∧
      t.cart = s.cart ∧ t.fault = s.fault ∧ t.dma = s.dma ∧ t.ppu = s.ppu ∧ t.cyc = s.cyc ∧
      ∀ w, s.peek a = some w → v = w := by
  unfold State.readable at h
  unfold State.busRead State.peek
  cases hT : cpuTarget a with
  | reserved => simp [hT] at h
  | hole => simp [hT] at h
  | prgRam k =>
    rw [hT] at h
    have hl : s.cart.prgRamLen ≠ 0 := by simpa using h
    simp only [hl, if_false]
    exact ⟨_, _, rfl, rfl, rfl, rfl, rfl, rfl, rfl, rfl, rfl, rfl, by simp⟩
  | ram k => exact ⟨_, _, rfl, rfl, rfl, rfl, rfl, rfl, rfl, rfl, rfl, rfl, by simp⟩
  | prgRom k => exact ⟨_, _, rfl, rfl, rfl, rfl, rfl, rfl, rfl, rfl, rfl, rfl, by simp⟩
  | ppu r => exact ⟨_, _, rfl, rfl, rfl, rfl, rfl, rfl, rfl, rfl, rfl, rfl, by simp⟩
  | apu k => exact ⟨_, _, rfl, rfl, rfl, rfl, rfl, rfl, rfl, rfl, rfl, rfl, by simp⟩
  | oamDma => exact ⟨_, _, rfl, rfl, rfl, rfl, rfl, rfl, rfl, rfl, rfl, rfl, by simp⟩
  | apuStatus => exact ⟨_, _, rfl, rfl, rfl, rfl, rfl, rfl, rfl, rfl, rfl, rfl, by simp⟩
  | pad1 => exact ⟨_, _, rfl, rfl, rfl, rfl, rfl, rfl, rfl, rfl, rfl, rfl, by simp⟩
  | pad2 => exact ⟨_, _, rfl, rfl, rfl, rfl, rfl, rfl, rfl, rfl, rfl, rfl, by simp⟩

/-- A CPU bus cycle that reads a readable address completes, whatever device answers. -/
theorem State.busCycle_read {s : State} (hs : s.PpuSafe) (hr : s.cpu.rw = .read) (ha : s.readable s.cpu.ab = true) :
    ∃ t, s.busCycle .cpu = .ok t ∧ ReadTick s t := by
  have drive : ∃ q, andThen s.driveBus State.ppuSteps = .ok { s with ppu := q } ∧
      q.access = false ∧ q.NoTallSprite ∧ q.oam = s.ppu.oam ∧ q.written = s.ppu.written ∧ q.palette = s.ppu.palette := by
    unfold State.driveBus
    rw [hr]
    dsimp only
    split
    · exact State.ppuSteps_read hs _
    · exact State.ppuSteps_idle hs
  obtain ⟨q, hq, qa, qn, qo, qoa, qp⟩ := drive
  obtain ⟨s1, hd, hp⟩ := andThen_eq_ok hq
  obtain ⟨v, t, hv, tc, tr, tpr, tv, tca, tf, td, tp, tcy, tw⟩ :=
    State.busRead_ok (s := State.latchNmi { s with ppu := q }) (a := s.cpu.ab) ha
  refine ⟨(t.deliver .cpu v).endTick, ?_, ?_⟩
  · unfold State.busCycle
    rw [hd, andThen_ok, hp, andThen_ok]
    unfold State.completeRead
    have : (State.latchNmi { s with ppu := q }).cpu.rw = .read := hr
    rw [this]
    dsimp only
    have hab : (State.latchNmi { s with ppu := q }).cpu.ab = s.cpu.ab := rfl
    rw [hab, hv, andThen_ok]
  · refine ⟨⟨v, s.cpu.pendingNmi || (q.nmiOut && !s.cpu.nmiPrev), q.nmiOut, t.apu.step.irqOut, ?_⟩, ?_, tr, tpr, tv, tca, tf, ?_, ?_, ?_, ?_, ?_, ?_⟩
    · show ({ ({ t.cpu with db := v } : Cpu) with irqLine := t.apu.step.irqOut } : Cpu) = _
      rw [tc]; rfl
    · intro w hw; exact tw w hw
    · exact td
    · show t.ppu.oam = _; rw [tp]; exact qo
    · show t.ppu.written = _; rw [tp]; exact qoa
    · show t.ppu.palette = _; rw [tp]; exact qp
    · show t.cyc + 1 = _; rw [tcy]; rfl
    · refine ⟨?_, ?_, ?_⟩
      · show 0x2000 ≤ t.cart.chrRomLen; rw [tca]; exact hs.1
      · show t.ppu.access = false; rw [tp]; exact qa
      · show t.ppu.NoTallSprite; rw [tp]; exact qn

/-! ## A write -/

/-- What a bus cycle that writes leaves of the state `s` that drove it. -/
structure WriteTick (s t : State) : Prop where
  cpu : ∃ n p q, t.cpu = { s.cpu with pendingNmi := n, nmiPrev := p, irqLine := q }
  ram : t.ram = match cpuTarget s.cpu.ab with
    | .ram k => s.ram.write k s.cpu.db
    | _ => s.ram
  prgRam : t.prgRam = match cpuTarget s.cpu.ab with
    | .prgRam k => s.prgRam.write (k % s.cart.prgRamLen) s.cpu.db
    | _ => s.prgRam
  vram : t.vram = s.vram
  cart : t.cart = s.cart
  fault : t.fault = s.fault
  dma : t.dma = s.dma
  oam : (∀ r, cpuTarget s.cpu.ab ≠ .ppu r) → t.ppu.oam = s.ppu.oam
  written : (∀ r, cpuTarget s.cpu.ab ≠ .ppu r) → t.ppu.written = s.ppu.written
  palette : t.ppu.palette = s.ppu.palette
  cyc : t.cyc = s.cyc + 1
  safe : t.PpuSafe

/-- A write of PPU registers 2 to 6 asks for no VRAM write and keeps PPUCTRL, PPUMASK and the palette. -/
theorem Ppu.registerWrite_keeps {p : Ppu} (h : p.cpuRw = .write) (h2 : 2 ≤ p.cpuReg.toNat) (h6 : p.cpuReg.toNat ≤ 6) :
    p.registerAccess.ctrl = p.ctrl ∧ p.registerAccess.mask = p.mask ∧ p.registerAccess.palette = p.palette ∧
      p.registerAccess.vramWr = p.vramWr := by
  unfold Ppu.registerAccess
  rw [h]
  split <;>
    first
    | exact ⟨rfl, rfl, rfl, rfl⟩
    | omega
    | (unfold Ppu.writeScroll; split <;> exact ⟨rfl, rfl, rfl, rfl⟩)
    | (unfold Ppu.writeAddr; split <;> exact ⟨rfl, rfl, rfl, rfl⟩)

theorem State.ppuSteps_write {s : State} (hs : s.PpuSafe) {r : BitVec 3} (h2 : 2 ≤ r.toNat) (h6 : r.toNat ≤ 6) (d : Byte) :
    ∃ q, State.ppuSteps { s with ppu := { s.ppu with cpuReg := r, cpuData := d, cpuRw := .write, access := true } } =
        .ok { s with ppu := q } ∧
      q.access = false ∧ q.NoTallSprite ∧ q.palette = s.ppu.palette := by
  obtain ⟨hc, -, hn⟩ := hs
  set p : Ppu := { s.ppu with cpuReg := r, cpuData := d, cpuRw := .write, access := true } with hp
  have hb : p.cpuAccess = { p.endStrobes with access := false }.registerAccess := Ppu.cpuAccess_busy rfl
  obtain ⟨k1, k2, k5, k6⟩ := Ppu.registerWrite_keeps (p := { p.endStrobes with access := false }) rfl h2 h6
  rw [← hb] at k1 k2 k5 k6
  have hn' : p.cpuAccess.NoTallSprite := by
    unfold Ppu.NoTallSprite Ppu.renderingEnabled
    rw [k1, k2]; exact hn
  obtain ⟨q, hq, hk, ha, -⟩ := State.ppuSteps_ok (s := { s with ppu := p }) hc k6 hn'
  exact ⟨q, hq, ha, hk.noTallSprite hn', hk.palette.trans k5⟩

/-- The rest of a write cycle after the write itself, given that its PPU steps complete. -/
theorem State.busCycle_write_of {s s1 s2 : State} {m : Master} (hr : s.cpu.rw = .write)
    (hw : s.busWrite s.cpu.ab s.cpu.db = .ok s1) (hp : s1.ppuSteps = .ok s2) (hc : s2.cpu.rw = .write) :
    s.busCycle m = .ok (State.latchNmi s2).endTick := by
  unfold State.busCycle State.driveBus
  rw [hr]
  dsimp only
  rw [hw, andThen_ok, hp, andThen_ok]
  unfold State.completeRead
  have : (State.latchNmi s2).cpu.rw = .write := hc
  rw [this]
  rfl

/-- A CPU bus cycle that writes a writable address completes. -/
theorem State.busCycle_write {s : State} (hs : s.PpuSafe) (hr : s.cpu.rw = .write) (ha : s.writable s.cpu.ab = true) :
    ∃ t, s.busCycle .cpu = .ok t ∧ WriteTick s t := by
  -- any target but the PPU window: the write leaves the PPU alone
  have plain : ∀ s1 : State, s.busWrite s.cpu.ab s.cpu.db = .ok s1 → (∀ r, cpuTarget s.cpu.ab ≠ .ppu r) →
      s1.cpu = s.cpu → s1.ppu = s.ppu → s1.vram = s.vram → s1.cart = s.cart → s1.fault = s.fault → s1.dma = s.dma →
      s1.cyc = s.cyc →
      s1.ram = (match cpuTarget s.cpu.ab with | .ram k => s.ram.write k s.cpu.db | _ => s.ram) →
      s1.prgRam = (match cpuTarget s.cpu.ab with
        | .prgRam k => s.prgRam.write (k % s.cart.prgRamLen) s.cpu.db | _ => s.prgRam) →
      ∃ t, s.busCycle .cpu = .ok t ∧ WriteTick s t := by
    intro s1 hw _ ec ep ev eca ef ed ecy er epr
    have hs1 : s1.PpuSafe := by
      unfold State.PpuSafe at *
      rw [eca, ep]; exact hs
    obtain ⟨q, hq, qa, qn, qo, qoa, qp⟩ := State.ppuSteps_idle hs1
    refine ⟨_, State.busCycle_write_of hr hw hq (ec ▸ hr), ?_⟩
    refine ⟨⟨s1.cpu.pendingNmi || (q.nmiOut && !s1.cpu.nmiPrev), q.nmiOut, s1.apu.step.irqOut, ?_⟩, er, epr, ev, eca, ef,
      ed, fun _ => ?_, fun _ => ?_, ?_, ?_, ?_⟩
    · show ({ ({ s1.cpu with pendingNmi := _, nmiPrev := _ } : Cpu) with irqLine := s1.apu.step.irqOut } : Cpu) = _
      rw [ec]
    · rw [← ep]; exact qo
    · rw [← ep]; exact qoa
    · rw [← ep]; exact qp
    · show s1.cyc + 1 = _; rw [ecy]
    · exact ⟨by show 0x2000 ≤ s1.cart.chrRomLen; rw [eca]; exact hs.1, qa, qn⟩
  unfold State.writable at ha
  unfold State.busWrite at plain
  cases hT : cpuTarget s.cpu.ab with
  | reserved => simp [hT] at ha
  | hole => simp [hT] at ha
  | oamDma => simp [hT] at ha
  | prgRom k => simp [hT] at ha
  | prgRam k =>
    rw [hT] at ha plain
    have hl : s.cart.prgRamLen ≠ 0 := by simpa using ha
    simp only [hl, if_false] at plain
    exact plain _ rfl (by simp) rfl rfl rfl rfl rfl rfl rfl rfl rfl
  | ram k => rw [hT] at plain; exact plain _ rfl (by simp) rfl rfl rfl rfl rfl rfl rfl rfl rfl
  | apu k => rw [hT] at plain; exact plain _ rfl (by simp) rfl rfl rfl rfl rfl rfl rfl rfl rfl
  | apuStatus => rw [hT] at plain; exact plain _ rfl (by simp) rfl rfl rfl rfl rfl rfl rfl rfl rfl
  | pad1 => rw [hT] at plain; exact plain _ rfl (by simp) rfl rfl rfl rfl rfl rfl rfl rfl rfl
  | pad2 => rw [hT] at plain; exact plain _ rfl (by simp) rfl rfl rfl rfl rfl rfl rfl rfl rfl
  | ppu r =>
    rw [hT] at ha
    have h26 : 2 ≤ r.toNat ∧ r.toNat ≤ 6 := by simpa using ha
    obtain ⟨q, hq, qa, qn, qp⟩ := State.ppuSteps_write hs h26.1 h26.2 s.cpu.db
    have hw : s.busWrite s.cpu.ab s.cpu.db =
        .ok { s with ppu := { s.ppu with cpuReg := r, cpuData := s.cpu.db, cpuRw := .write, access := true } } := by
      unfold State.busWrite; rw [hT]
    refine ⟨_, State.busCycle_write_of hr hw hq hr, ?_⟩
    refine ⟨⟨s.cpu.pendingNmi || (q.nmiOut && !s.cpu.nmiPrev), q.nmiOut, s.apu.step.irqOut, rfl⟩, ?_, ?_, rfl, rfl, rfl,
      rfl, ?_, ?_, qp, rfl, ⟨hs.1, qa, qn⟩⟩
    · rw [hT]; rfl
    · rw [hT]; rfl
    · intro h; exact absurd hT (h r)
    · intro h; exact absurd hT (h r)

end Sys2Proof.Machine
end

