-- ==== Sys2Proof/Laws/Dots.lean ====
section
/-! SUPPORT. The fields each sub-step of a dot writes (rule R360), one dot with rendering on or off, and a dot whose VRAM
accesses are served. -/

namespace Sys2Proof.Machine

/-! ## The fields each sub-step writes -/

theorem Ppu.reload_only (p : Ppu) : ∃ b l, p.reload = { p with bgPat := b, palLatch := l } := by
  unfold Ppu.reload
  split
  · exact ⟨_, _, rfl⟩
  · exact ⟨p.bgPat, p.palLatch, rfl⟩

theorem Ppu.emitPixel_only (p : Ppu) : ∃ f, p.emitPixel = { p with frameBuffer := f } := by
  unfold Ppu.emitPixel
  split
  · exact ⟨_, rfl⟩
  · exact ⟨p.frameBuffer, rfl⟩

theorem Ppu.fetchBackground_only (p : Ppu) :
    ∃ a r n at_ lo hi, p.fetchBackground =
      { p with vramAddr := a, vramRd := r, ntByte := n, atByte := at_, ptLo := lo, ptHi := hi } := by
  unfold Ppu.fetchBackground
  split
  · split <;> exact ⟨_, _, _, _, _, _, rfl⟩
  · exact ⟨p.vramAddr, p.vramRd, p.ntByte, p.atByte, p.ptLo, p.ptHi, rfl⟩

/-- No background fetch off its dots. -/
theorem Ppu.fetchBackground_off {p : Ppu} (h : (p.dotIn 1 256 || p.dotIn 321 336) = false) : p.fetchBackground = p := by
  unfold Ppu.fetchBackground; rw [h, Bool.and_false, if_neg Bool.false_ne_true]

theorem Ppu.fetchSprite_only {p q : Ppu} (h : p.fetchSprite = .ok q) :
    ∃ a r lo sl, q = { p with vramAddr := a, vramRd := r, sprLo := lo, slots := sl } := by
  unfold Ppu.fetchSprite at h
  dsimp only at h
  have done : ∀ {r : Ppu}, (.ok r : Except Fault Ppu) = .ok q → r = q := fun e => Except.ok.inj e
  repeat' split at h
  all_goals first
    | (cases h; done)
    | (rw [← done h]; exact ⟨_, _, _, _, rfl⟩)

/-- No sprite fetch off its dots. -/
theorem Ppu.fetchSprite_off {p : Ppu} (h : p.dotIn 257 320 = false) : p.fetchSprite = .ok p := by
  unfold Ppu.fetchSprite; rw [h, Bool.and_false, if_neg Bool.false_ne_true]

theorem Ppu.updateScroll_only (p : Ppu) : ∃ v, p.updateScroll = { p with v := v } := by
  have x : ∀ p : Ppu, ∃ v, p.scrollX = { p with v := v } := fun p => by
    unfold Ppu.scrollX; split
    · exact ⟨_, rfl⟩
    · exact ⟨p.v, rfl⟩
  have y : ∀ p : Ppu, ∃ v, p.scrollY = { p with v := v } := fun p => by
    unfold Ppu.scrollY; split
    · exact ⟨_, rfl⟩
    · exact ⟨p.v, rfl⟩
  have cx : ∀ p : Ppu, ∃ v, p.scrollCopyX = { p with v := v } := fun p => by
    unfold Ppu.scrollCopyX; split
    · exact ⟨_, rfl⟩
    · exact ⟨p.v, rfl⟩
  have cy : ∀ p : Ppu, ∃ v, p.scrollCopyY = { p with v := v } := fun p => by
    unfold Ppu.scrollCopyY; split
    · exact ⟨_, rfl⟩
    · exact ⟨p.v, rfl⟩
  unfold Ppu.updateScroll
  obtain ⟨a, ha⟩ := x p
  obtain ⟨b, hb⟩ := y p.scrollX
  obtain ⟨c, hc⟩ := cx p.scrollX.scrollY
  obtain ⟨d, hd⟩ := cy p.scrollX.scrollY.scrollCopyX
  exact ⟨d, by rw [hd, hc, hb, ha]⟩

/-- The scroll address stays off its dots. -/
theorem Ppu.updateScroll_off {p : Ppu} (h8 : p.dot % 8 ≠ 0 ∨ p.dotIn 257 320 = true) (h257 : p.dot ≠ 257)
    (hv : p.dotIn 280 304 = false) : p.updateScroll = p := by
  have e1 : p.scrollX = p := by
    unfold Ppu.scrollX; rw [if_neg]
    rcases h8 with h | h <;> simp [h]
  have e2 : p.scrollY = p := by
    unfold Ppu.scrollY; rw [if_neg]
    rcases h8 with h | h
    · simp only [Bool.and_eq_true, decide_eq_true_eq]; omega
    · unfold Ppu.dotIn at h; simp only [Bool.and_eq_true, decide_eq_true_eq] at h ⊢; omega
  have e3 : p.scrollCopyX = p := by
    unfold Ppu.scrollCopyX; rw [if_neg]; simp only [Bool.and_eq_true, decide_eq_true_eq]; omega
  have e4 : p.scrollCopyY = p := by unfold Ppu.scrollCopyY; rw [hv, Bool.and_false, if_neg Bool.false_ne_true]
  unfold Ppu.updateScroll; rw [e1, e2, e3, e4]

theorem Ppu.scanSprites_only (ks : List Nat) (p : Ppu) :
    ∃ m n o, ks.foldl Ppu.scanSprite p = { p with secOam := m, secCount := n, spriteOverflow := o } ∧
      (p.spriteOverflow = true → o = true) := by
  induction ks generalizing p with
  | nil => exact ⟨p.secOam, p.secCount, p.spriteOverflow, rfl, id⟩
  | cons k ks ih =>
    obtain ⟨m, n, o, h, ho⟩ := ih (p.scanSprite k)
    rw [List.foldl_cons, h]
    have one : ∃ m n o, p.scanSprite k = { p with secOam := m, secCount := n, spriteOverflow := o } ∧
        (p.spriteOverflow = true → o = true) := by
      unfold Ppu.scanSprite
      generalize spriteInRange _ _ _ = inRange
      cases inRange
      · exact ⟨p.secOam, p.secCount, p.spriteOverflow, rfl, id⟩
      · by_cases hc : p.secCount < 8
        · simp only [hc, if_true]; exact ⟨_, _, p.spriteOverflow, rfl, id⟩
        · simp only [hc, if_true, if_false]; exact ⟨p.secOam, p.secCount, true, rfl, fun _ => rfl⟩
    obtain ⟨m', n', o', h', ho'⟩ := one
    rw [h'] at ho ⊢
    exact ⟨m, n, o, rfl, fun e => ho (ho' e)⟩

theorem Ppu.evaluateSprites_only (p : Ppu) :
    ∃ m n o, p.evaluateSprites = { p with secOam := m, secCount := n, spriteOverflow := o } ∧
      (p.spriteOverflow = true → o = true) := by
  unfold Ppu.evaluateSprites
  split
  · exact ⟨_, _, p.spriteOverflow, rfl, id⟩
  · split
    · exact p.scanSprites_only (List.range 64)
    · exact ⟨p.secOam, p.secCount, p.spriteOverflow, rfl, id⟩

/-- No evaluation off its dots. -/
theorem Ppu.evaluateSprites_off {p : Ppu} (h1 : p.dot ≠ 1) (h65 : p.dot ≠ 65) : p.evaluateSprites = p := by
  unfold Ppu.evaluateSprites
  rw [decide_eq_false h1, decide_eq_false h65, Bool.and_false, Bool.and_false, if_neg Bool.false_ne_true,
    if_neg Bool.false_ne_true]

theorem Ppu.shiftBackground_only (p : Ppu) : ∃ a b, p.shiftBackground = { p with bgPat := a, bgPal := b } := by
  unfold Ppu.shiftBackground
  split
  · exact ⟨_, _, rfl⟩
  · exact ⟨p.bgPat, p.bgPal, rfl⟩

theorem Ppu.shiftSprites_only (p : Ppu) : ∃ l, p.shiftSprites = { p with slots := l } := by
  unfold Ppu.shiftSprites
  split
  · exact ⟨_, rfl⟩
  · exact ⟨p.slots, rfl⟩

theorem Ppu.vblankEdges_only (p : Ppu) :
    ∃ v f o, p.vblankEdges = { p with vblankStarted := v, frameComplete := f, spriteOverflow := o } := by
  unfold Ppu.vblankEdges
  split
  · exact ⟨_, _, p.spriteOverflow, rfl⟩
  · split
    · exact ⟨_, _, _, rfl⟩
    · exact ⟨p.vblankStarted, p.frameComplete, p.spriteOverflow, rfl⟩

theorem Ppu.advanceCounters_only (p : Ppu) :
    ∃ d l o, p.advanceCounters = { p with dot := d, scanline := l, oddFrame := o } := by
  unfold Ppu.advanceCounters
  split
  · split
    · exact ⟨_, _, _, rfl⟩
    · exact ⟨_, _, p.oddFrame, rfl⟩
  · exact ⟨_, p.scanline, p.oddFrame, rfl⟩

/-- A dot that is not the last of its line. -/
theorem Ppu.advanceCounters_within {p : Ppu} (h : p.dot + 1 ≠ 341) : p.advanceCounters = { p with dot := p.dot + 1 } := by
  unfold Ppu.advanceCounters; rw [if_neg h]

/-- The sub-steps up to the fetches, all in one. -/
theorem Ppu.front_only {p r : Ppu} (h : p.reload.emitPixel.fetchBackground.fetchSprite = .ok r) :
    ∃ a x n at_ lo hi lo' sl, r =
      { p with bgPat := p.reload.bgPat, palLatch := p.reload.palLatch, frameBuffer := p.reload.emitPixel.frameBuffer,
               vramAddr := a, vramRd := x, ntByte := n, atByte := at_, ptLo := lo, ptHi := hi, sprLo := lo', slots := sl } := by
  obtain ⟨b, l, h1⟩ := p.reload_only
  obtain ⟨f, h2⟩ := p.reload.emitPixel_only
  obtain ⟨a, x, n, at_, lo, hi, h3⟩ := p.reload.emitPixel.fetchBackground_only
  obtain ⟨a', x', lo', sl, h4⟩ := Ppu.fetchSprite_only h
  have e1 : p.reload.bgPat = b := congrArg Ppu.bgPat h1
  have e2 : p.reload.palLatch = l := congrArg Ppu.palLatch h1
  have e3 : p.reload.emitPixel.frameBuffer = f := congrArg Ppu.frameBuffer h2
  subst e1 e2 e3
  exact ⟨a', x', n, at_, lo, hi, lo', sl, by rw [h4, h3, h2, h1]⟩

/-- What the shifts and the counters write depends on these fields alone. -/
theorem Ppu.shiftBackground_congr {p q : Ppu} (hl : q.scanline = p.scanline) (hd : q.dot = p.dot) (h1 : q.bgPat = p.bgPat)
    (h2 : q.bgPal = p.bgPal) (h3 : q.palLatch = p.palLatch) :
    q.shiftBackground.bgPat = p.shiftBackground.bgPat ∧ q.shiftBackground.bgPal = p.shiftBackground.bgPal := by
  unfold Ppu.shiftBackground Ppu.renderLine Ppu.visibleLine Ppu.preRender Ppu.dotIn
  rw [hl, hd, h1, h2, h3]
  split
  · exact ⟨rfl, rfl⟩
  · exact ⟨h1, h2⟩

theorem Ppu.shiftSprites_congr {p q : Ppu} (hl : q.scanline = p.scanline) (hd : q.dot = p.dot) (h1 : q.slots = p.slots) :
    q.shiftSprites.slots = p.shiftSprites.slots := by
  unfold Ppu.shiftSprites Ppu.visibleLine Ppu.dotIn
  rw [hl, hd, h1]
  split
  · rfl
  · exact h1

theorem Ppu.advanceCounters_congr {p q : Ppu} (hl : q.scanline = p.scanline) (hd : q.dot = p.dot) :
    q.advanceCounters.dot = p.advanceCounters.dot ∧ q.advanceCounters.scanline = p.advanceCounters.scanline := by
  unfold Ppu.advanceCounters
  rw [hl, hd]
  split
  · split <;> exact ⟨rfl, rfl⟩
  · exact ⟨rfl, rfl⟩

/-- The sub-steps after the fetches, all in one: evaluation writes at dots 1 and 65 only, and the overflow flag stays set
off line 261 dot 1. -/
theorem Ppu.tail_only (p : Ppu) :
    ∃ m n o v f x, p.updateScroll.evaluateSprites.shiftBackground.shiftSprites.vblankEdges.advanceCounters =
      { p with v := p.updateScroll.v, bgPat := p.shiftBackground.bgPat, bgPal := p.shiftBackground.bgPal,
               slots := p.shiftSprites.slots, secOam := m, secCount := n, spriteOverflow := o, vblankStarted := v,
               frameComplete := f, dot := p.advanceCounters.dot, scanline := p.advanceCounters.scanline,
               oddFrame := x } ∧
      (p.dot ≠ 1 → p.dot ≠ 65 → m = p.secOam ∧ n = p.secCount) ∧
      (p.spriteOverflow = true → ¬(p.scanline = 261 ∧ p.dot = 1) → o = true) := by
  have chain : ∀ q1 q2 q3 q4 q5 q6 : Ppu, p.updateScroll = q1 → q1.evaluateSprites = q2 → q2.shiftBackground = q3 →
      q3.shiftSprites = q4 → q4.vblankEdges = q5 → q5.advanceCounters = q6 → ∃ m n o v f x, q6 =
        { p with v := q1.v, bgPat := p.shiftBackground.bgPat, bgPal := p.shiftBackground.bgPal,
                 slots := p.shiftSprites.slots, secOam := m, secCount := n, spriteOverflow := o, vblankStarted := v,
                 frameComplete := f, dot := p.advanceCounters.dot, scanline := p.advanceCounters.scanline,
                 oddFrame := x } ∧
        (p.dot ≠ 1 → p.dot ≠ 65 → m = p.secOam ∧ n = p.secCount) ∧
        (p.spriteOverflow = true → ¬(p.scanline = 261 ∧ p.dot = 1) → o = true) := by
    intro q1 q2 q3 q4 q5 q6 h1 h2 h3 h4 h5 h6
    obtain ⟨v, e1⟩ := p.updateScroll_only
    obtain ⟨m, n, o, e2, eo⟩ := q1.evaluateSprites_only
    obtain ⟨a, b, e3⟩ := q2.shiftBackground_only
    obtain ⟨sl, e4⟩ := q3.shiftSprites_only
    obtain ⟨w, f, o', e5⟩ := q4.vblankEdges_only
    obtain ⟨d, l, x, e6⟩ := q5.advanceCounters_only
    rw [h1] at e1; rw [h2] at e2; rw [h3] at e3; rw [h4] at e4; rw [h5] at e5; rw [h6] at e6
    subst e1 e2
    obtain ⟨k1, k2⟩ := Ppu.shiftBackground_congr (p := p) (q := { p with v := v, secOam := m, secCount := n, spriteOverflow := o })
      rfl rfl rfl rfl rfl
    rw [h3] at k1 k2
    have k3 := Ppu.shiftSprites_congr (p := p) (q := q3) (by rw [e3]) (by rw [e3]) (by rw [e3])
    rw [h4] at k3
    have k4 := Ppu.advanceCounters_congr (p := p) (q := q5) (by rw [e5, e4, e3]) (by rw [e5, e4, e3])
    rw [h6] at k4
    refine ⟨m, n, o', w, f, x, ?_, fun d1 d65 => ?_, fun ho hd => ?_⟩
    · rw [← k1, ← k2, ← k3, ← k4.1, ← k4.2, e6, e5, e4, e3]
    · have he := Ppu.evaluateSprites_off (p := { p with v := v }) d1 d65
      rw [h2] at he
      exact ⟨congrArg Ppu.secOam he, congrArg Ppu.secCount he⟩
    · have h4' : q4.spriteOverflow = true ∧ q4.scanline = p.scanline ∧ q4.dot = p.dot := by
        rw [e4, e3]; exact ⟨eo ho, rfl, rfl⟩
      have h5' : q5.spriteOverflow = true := by
        rw [← h5]; unfold Ppu.vblankEdges
        split
        · exact h4'.1
        · rw [if_neg (by rw [h4'.2.1, h4'.2.2]; exact hd)]; exact h4'.1
      rw [e5] at h5'; exact h5'
  exact chain _ _ _ _ _ _ rfl rfl rfl rfl rfl rfl

/-! ## One dot -/

/-- One dot with no access waiting and rendering on: the sub-steps, in order. -/
theorem Ppu.step_rendering {p q : Ppu} (h : p.step = .ok q) (ha : p.access = false) (hr : p.renderingEnabled = true) :
    ∃ r, p.endStrobes.reload.emitPixel.fetchBackground.fetchSprite = .ok r ∧
      q = r.updateScroll.evaluateSprites.shiftBackground.shiftSprites.vblankEdges.advanceCounters := by
  unfold Ppu.step at h
  rw [Ppu.cpuAccess_idle ha] at h
  have hr' : p.endStrobes.renderingEnabled = true := hr
  dsimp only at h
  rw [if_pos hr'] at h
  unfold Ppu.render at h
  cases hf : p.endStrobes.reload.emitPixel.fetchBackground.fetchSprite with
  | error f => rw [hf] at h; cases h
  | ok r => rw [hf] at h; exact ⟨r, rfl, (Except.ok.inj h).symm⟩

/-- The same, from the sub-steps to the dot. -/
theorem Ppu.step_rendering_ok {p r : Ppu} (ha : p.access = false) (hr : p.renderingEnabled = true)
    (hf : p.endStrobes.reload.emitPixel.fetchBackground.fetchSprite = .ok r) :
    p.step = .ok r.updateScroll.evaluateSprites.shiftBackground.shiftSprites.vblankEdges.advanceCounters := by
  have hr' : p.endStrobes.renderingEnabled = true := hr
  unfold Ppu.step
  rw [Ppu.cpuAccess_idle ha]
  dsimp only
  rw [if_pos hr']
  unfold Ppu.render
  rw [hf]

/-- One dot with rendering off after its register access: the v-blank edges and the counters. -/
theorem Ppu.step_off {p : Ppu} (h : p.cpuAccess.renderingEnabled = false) :
    p.step = .ok p.cpuAccess.vblankEdges.advanceCounters := by
  unfold Ppu.step; dsimp only; rw [if_neg (by rw [h]; exact Bool.false_ne_true)]

/-- A dot that asks for no VRAM access. -/
theorem State.ppuStep_quiet {s : State} {q : Ppu} (h : s.ppu.step = .ok q) (hr : q.vramRd = false) (hw : q.vramWr = false) :
    s.ppuStep = .ok { s with ppu := q } := by
  unfold State.ppuStep; rw [h]; simp [State.servePpuRead, State.servePpuWrite, hr, hw]

/-- A dot that asks for a VRAM read: the byte is served in it. -/
theorem State.ppuStep_reads {s : State} {q : Ppu} {d : Byte} (h : s.ppu.step = .ok q) (hr : q.vramRd = true)
    (hw : q.vramWr = false) (hd : s.ppuBusRead q.vramAddr = .ok d) :
    s.ppuStep = .ok { s with ppu := { q with vramData := d } } := by
  have hd' : State.ppuBusRead { s with ppu := q } q.vramAddr = .ok d := hd
  unfold State.ppuStep; rw [h]; simp [State.servePpuRead, State.servePpuWrite, hr, hw, hd']

/-- One dot with rendering off leaves `v`, PPUMASK and the access as its register access left them. -/
theorem State.ppuStep_off {s t : State} (h : s.ppuStep = .ok t) (hr : s.ppu.cpuAccess.renderingEnabled = false) :
    t.ppu.v = s.ppu.cpuAccess.v ∧ t.ppu.mask = s.ppu.cpuAccess.mask ∧ t.ppu.access = s.ppu.cpuAccess.access := by
  unfold State.ppuStep at h
  rw [Ppu.step_off hr] at h
  have hv : s.ppu.cpuAccess.vblankEdges.advanceCounters.v = s.ppu.cpuAccess.v ∧
      s.ppu.cpuAccess.vblankEdges.advanceCounters.mask = s.ppu.cpuAccess.mask ∧
      s.ppu.cpuAccess.vblankEdges.advanceCounters.access = s.ppu.cpuAccess.access := by
    obtain ⟨a, b, c, h1⟩ := s.ppu.cpuAccess.vblankEdges_only
    obtain ⟨d, e, f, h2⟩ := s.ppu.cpuAccess.vblankEdges.advanceCounters_only
    rw [h2, h1]; exact ⟨rfl, rfl, rfl⟩
  generalize s.ppu.cpuAccess.vblankEdges.advanceCounters = p at h hv
  rw [← hv.1, ← hv.2.1, ← hv.2.2]
  obtain ⟨u, h1, h2⟩ := andThen_eq_ok h
  have hu : u.ppu.v = p.v ∧ u.ppu.mask = p.mask ∧ u.ppu.access = p.access := by
    unfold State.servePpuRead at h1
    dsimp only at h1
    split at h1
    · split at h1
      · cases h1
      · cases h1; exact ⟨rfl, rfl, rfl⟩
    · cases h1; exact ⟨rfl, rfl, rfl⟩
  rw [← hu.1, ← hu.2.1, ← hu.2.2]
  unfold State.servePpuWrite at h2
  split at h2
  · split at h2
    · cases h2; unfold State.lostPpuWrite; split <;> exact ⟨rfl, rfl, rfl⟩
    · unfold State.ppuBusWrite at h2; split at h2
      · cases h2
      · cases h2; exact ⟨rfl, rfl, rfl⟩
  · cases h2; exact ⟨rfl, rfl, rfl⟩

/-- The three dots of a tick, with rendering off after the first one's register access: `v` is what that access left. -/
theorem State.ppuSteps_off {s t : State} (h : s.ppuSteps = .ok t) (hr : s.ppu.cpuAccess.renderingEnabled = false) :
    t.ppu.v = s.ppu.cpuAccess.v := by
  obtain ⟨u, h1, h2⟩ := andThen_eq_ok h
  obtain ⟨w, h0, h1⟩ := andThen_eq_ok h1
  obtain ⟨a1, a2, a3⟩ := State.ppuStep_off h0 hr
  have i1 : w.ppu.cpuAccess = w.ppu.endStrobes := Ppu.cpuAccess_idle (a3.trans s.ppu.cpuAccess_access)
  have off : ∀ p : Ppu, p.mask = s.ppu.cpuAccess.mask → p.renderingEnabled = false := fun p hp => by
    unfold Ppu.renderingEnabled at *; rw [hp]; exact hr
  obtain ⟨b1, b2, b3⟩ := State.ppuStep_off h1 (by rw [i1]; exact off _ a2)
  rw [i1] at b1 b2
  have i2 : u.ppu.cpuAccess = u.ppu.endStrobes := Ppu.cpuAccess_idle (b3.trans w.ppu.cpuAccess_access)
  obtain ⟨c1, -, -⟩ := State.ppuStep_off h2 (by rw [i2]; exact off _ (b2.trans a2))
  rw [i2] at c1
  exact c1.trans (b1.trans a1)

/-- Dots one after another. -/
theorem State.dots_succ {n : Nat} {s t : State} (h : s.ppuStep = .ok t) : State.dots (n + 1) s = State.dots n t := by
  show andThen s.ppuStep (State.dots n) = _; rw [h, andThen_ok]

end Sys2Proof.Machine
end

