-- ==== Sys2Proof/Laws/Ops.lean ====
section
/-! SUPPORT. What one cycle of an instruction, and the walk through an addressing mode, can do: one lemma per shared
operation, cited by every proof about an instruction. -/

namespace Sys2Proof.Machine

/-! ## Progress that leaves the program's state alone -/

/-- The part of the CPU that only some rows change. -/
structure Cpu.Same (c d : Cpu) : Prop where
  regs : d.regs = c.regs
  deferred : d.deferred = c.deferred
  pendingReset : d.pendingReset = c.pendingReset
  resetLine : d.resetLine = c.resetLine
  ir : d.ir = c.ir
  intKind : d.intKind = c.intKind

theorem Cpu.Same.refl (c : Cpu) : c.Same c := ⟨rfl, rfl, rfl, rfl, rfl, rfl⟩

theorem Cpu.Same.trans {c d e : Cpu} (h : c.Same d) (k : d.Same e) : c.Same e :=
  ⟨k.regs.trans h.regs, k.deferred.trans h.deferred, k.pendingReset.trans h.pendingReset,
    k.resetLine.trans h.resetLine, k.ir.trans h.ir, k.intKind.trans h.intKind⟩

/-- The memories, the cartridge, the DMA engine and the fault as before, the PPU safe, `n` ticks later. -/
structure Quiet (n : Nat) (s t : State) : Prop where
  ram : t.ram = s.ram
  prgRam : t.prgRam = s.prgRam
  vram : t.vram = s.vram
  cart : t.cart = s.cart
  fault : t.fault = s.fault
  dma : t.dma = s.dma
  oam : t.ppu.oam = s.ppu.oam
  written : t.ppu.written = s.ppu.written
  palette : t.ppu.palette = s.ppu.palette
  cyc : t.cyc = s.cyc + n
  safe : t.PpuSafe

theorem Quiet.refl {s : State} (h : s.PpuSafe) : Quiet 0 s s :=
  ⟨rfl, rfl, rfl, rfl, rfl, rfl, rfl, rfl, rfl, rfl, h⟩

theorem Quiet.trans {m n : Nat} {s t u : State} (h : Quiet m s t) (k : Quiet n t u) : Quiet (m + n) s u :=
  ⟨k.ram.trans h.ram, k.prgRam.trans h.prgRam, k.vram.trans h.vram, k.cart.trans h.cart, k.fault.trans h.fault,
    k.dma.trans h.dma, k.oam.trans h.oam, k.written.trans h.written, k.palette.trans h.palette,
    by rw [k.cyc, h.cyc]; omega, k.safe⟩

theorem Quiet.busReady {n : Nat} {s t : State} (h : Quiet n s t) (hs : s.BusReady) : t.BusReady :=
  ⟨by rw [h.dma]; exact hs.1, h.safe⟩

theorem Quiet.peek {n : Nat} {s t : State} (h : Quiet n s t) (a : Word) : t.peek a = s.peek a :=
  State.peek_congr h.ram h.prgRam h.cart a

theorem Quiet.readable {n : Nat} {s t : State} (h : Quiet n s t) (a : Word) : t.readable a = s.readable a :=
  State.readable_congr h.cart a

theorem Quiet.writable {n : Nat} {s t : State} (h : Quiet n s t) (a : Word) : t.writable a = s.writable a :=
  State.writable_congr h.cart a

/-- The CPU replaced: everything else is as before. -/
theorem Quiet.withCpu {n : Nat} {s t : State} (h : Quiet n s t) (c : Cpu) : Quiet n s (t.withCpu c) :=
  ⟨h.ram, h.prgRam, h.vram, h.cart, h.fault, h.dma, h.oam, h.written, h.palette, h.cyc, h.safe⟩

theorem ReadTick.quiet {s t : State} {c : Cpu} (h : ReadTick (s.withCpu c) t) : Quiet 1 s t :=
  ⟨h.ram, h.prgRam, h.vram, h.cart, h.fault, h.dma, h.oam, h.written, h.palette, h.cyc, h.safe⟩

theorem WriteTick.stored {s t : State} {c : Cpu} (h : WriteTick (s.withCpu c) t) : Stored s t c.ab c.db :=
  ⟨h.ram, h.prgRam, h.cart⟩

/-! ## One cycle -/

theorem State.finishDma_idle {s : State} (h : s.dma.active = false) : s.finishDma = .ok s := by
  unfold State.finishDma State.dmaTicks
  simp [h]

/-- The CPU a row drives the bus with. -/
def drives (r : Row) (s : State) : Cpu := r { s.cpu with sync := false }

theorem State.cycle_idle {s : State} (h : s.dma.active = false) (r : Row) :
    s.cycle r = (s.withCpu (drives r s)).busCycle .cpu := by
  unfold State.cycle
  rw [State.finishDma_idle h]
  rfl

theorem State.cycle_read {s : State} {r : Row} (hs : s.BusReady) (hr : (drives r s).rw = .read)
    (ha : s.readable (drives r s).ab = true) :
    ∃ t, s.cycle r = .ok t ∧ ReadTick (s.withCpu (drives r s)) t := by
  rw [State.cycle_idle hs.1]
  exact State.busCycle_read (s := s.withCpu (drives r s)) hs.2 hr ha

theorem State.cycle_write {s : State} {r : Row} (hs : s.BusReady) (hr : (drives r s).rw = .write)
    (ha : s.writable (drives r s).ab = true) :
    ∃ t, s.cycle r = .ok t ∧ WriteTick (s.withCpu (drives r s)) t := by
  rw [State.cycle_idle hs.1]
  exact State.busCycle_write (s := s.withCpu (drives r s)) hs.2 hr ha

/-! ## Rows -/

theorem State.runRows_last {s t : State} {r : Row} {rows : List Row} (h : s.cycle r = .ok t) (ht : t.cpu.t = 1) :
    s.runRows (r :: rows) = .ok t.commit := by
  unfold State.runRows
  rw [h, andThen_ok, if_pos ht]

theorem State.runRows_more {s t : State} {r : Row} {rows : List Row} (h : s.cycle r = .ok t) (ht : t.cpu.t ≠ 1) :
    s.runRows (r :: rows) = t.runRows rows := by
  conv => lhs; unfold State.runRows
  rw [h, andThen_ok, if_neg ht]

theorem State.runRows_error {s : State} {r : Row} {rows : List Row} {f : Fault} (h : s.cycle r = .error f) :
    s.runRows (r :: rows) = .error f := by
  unfold State.runRows
  rw [h]; rfl

/-- A reading row that is not the last: the state it leaves, and the rows that follow. -/
theorem State.runRows_read {s : State} {r : Row} (rows : List Row) (hs : s.BusReady) (hr : (drives r s).rw = .read)
    (ha : s.readable (drives r s).ab = true) (ht : (drives r s).t ≠ 1) :
    ∃ t v n p q, s.runRows (r :: rows) = t.runRows rows ∧ Quiet 1 s t ∧
      t.cpu = { drives r s with db := v, pendingNmi := n, nmiPrev := p, irqLine := q } ∧
      ∀ w, s.peek (drives r s).ab = some w → v = w := by
  obtain ⟨t, h, k⟩ := State.cycle_read hs hr ha
  obtain ⟨v, n, p, q, hc⟩ := k.cpu
  refine ⟨t, v, n, p, q, State.runRows_more h ?_, k.quiet, hc, ?_⟩
  · rw [hc]; exact ht
  · intro w hw
    have := k.value w hw
    rw [hc] at this; exact this

/-- The last reading row: the state it leaves at the boundary. -/
theorem State.runRows_read_last {s : State} {r : Row} (rows : List Row) (hs : s.BusReady) (hr : (drives r s).rw = .read)
    (ha : s.readable (drives r s).ab = true) (ht : (drives r s).t = 1) :
    ∃ t v n p q, s.runRows (r :: rows) = .ok t.commit ∧ Quiet 1 s t ∧
      t.cpu = { drives r s with db := v, pendingNmi := n, nmiPrev := p, irqLine := q } ∧
      ∀ w, s.peek (drives r s).ab = some w → v = w := by
  obtain ⟨t, h, k⟩ := State.cycle_read hs hr ha
  obtain ⟨v, n, p, q, hc⟩ := k.cpu
  refine ⟨t, v, n, p, q, State.runRows_last h ?_, k.quiet, hc, ?_⟩
  · rw [hc]; exact ht
  · intro w hw
    have := k.value w hw
    rw [hc] at this; exact this

/-- What a writing cycle leaves: the byte stored, nothing else of the program's state. -/
structure Wrote (s t : State) (a : Word) (v : Byte) : Prop where
  stored : Stored s t a v
  vram : t.vram = s.vram
  fault : t.fault = s.fault
  dma : t.dma = s.dma
  oam : (∀ r, cpuTarget a ≠ .ppu r) → t.ppu.oam = s.ppu.oam
  written : (∀ r, cpuTarget a ≠ .ppu r) → t.ppu.written = s.ppu.written
  palette : t.ppu.palette = s.ppu.palette
  cyc : t.cyc = s.cyc + 1
  safe : t.PpuSafe

theorem WriteTick.wrote {s t : State} {c : Cpu} (h : WriteTick (s.withCpu c) t) : Wrote s t c.ab c.db :=
  ⟨h.stored, h.vram, h.fault, h.dma, h.oam, h.written, h.palette, h.cyc, h.safe⟩

theorem Wrote.busReady {s t : State} {a : Word} {v : Byte} (h : Wrote s t a v) (hs : s.BusReady) : t.BusReady :=
  ⟨by rw [h.dma]; exact hs.1, h.safe⟩

/-- A writing row that is not the last. -/
theorem State.runRows_write {s : State} {r : Row} (rows : List Row) (hs : s.BusReady) (hr : (drives r s).rw = .write)
    (ha : s.writable (drives r s).ab = true) (ht : (drives r s).t ≠ 1) :
    ∃ t n p q, s.runRows (r :: rows) = t.runRows rows ∧ Wrote s t (drives r s).ab (drives r s).db ∧
      t.cpu = { drives r s with pendingNmi := n, nmiPrev := p, irqLine := q } := by
  obtain ⟨t, h, k⟩ := State.cycle_write hs hr ha
  obtain ⟨n, p, q, hc⟩ := k.cpu
  refine ⟨t, n, p, q, State.runRows_more h ?_, k.wrote, hc⟩
  rw [hc]; exact ht

/-- The last writing row. -/
theorem State.runRows_write_last {s : State} {r : Row} (rows : List Row) (hs : s.BusReady)
    (hr : (drives r s).rw = .write) (ha : s.writable (drives r s).ab = true) (ht : (drives r s).t = 1) :
    ∃ t n p q, s.runRows (r :: rows) = .ok t.commit ∧ Wrote s t (drives r s).ab (drives r s).db ∧
      t.cpu = { drives r s with pendingNmi := n, nmiPrev := p, irqLine := q } := by
  obtain ⟨t, h, k⟩ := State.cycle_write hs hr ha
  obtain ⟨n, p, q, hc⟩ := k.cpu
  refine ⟨t, n, p, q, State.runRows_last h ?_, k.wrote, hc⟩
  rw [hc]; exact ht

/-- Two rows that drive the bus alike run alike. -/
theorem State.runRows_congr {s : State} {r r' : Row} (rows : List Row) (hs : s.BusReady) (h : drives r s = drives r' s) :
    s.runRows (r :: rows) = s.runRows (r' :: rows) := by
  have hc : s.cycle r = s.cycle r' := by rw [State.cycle_idle hs.1, State.cycle_idle hs.1, h]
  unfold State.runRows
  rw [hc]

/-! ## The walk through an addressing mode (rules R191 to R196) -/

/-- The CPU at the start of a form's rows: the operand fetched. -/
def Operand.start (o : Operand) (s : State) : State := s.withCpu { o.hold s.cpu with t := o.firstCycle }

/-- What stands when a form reaches its final cycle: the access at address `a`, driven by `c`, from state `t`. -/
structure Walked (o : Operand) (elide : Bool) (access : Access) (rest : List Row) (s : State) (a : Word) (t : State)
    (c : Cpu) (rest' : List Row) : Prop where
  address : o.address s = some a
  runs : (o.start s).runRows (o.rows elide access ++ rest) = t.runRows ((fun _ => access a c) :: rest')
  rest : elide = false → rest' = rest
  quiet : ∃ n, Quiet n s t ∧ n + 1 = o.cycles elide s
  same : s.cpu.Same c
  ea : c.ea = a
  late : 1 < c.t

/-- Without a page cross the address before the carry is the address (rule R194). -/
theorem uncarried_eq_indexed {hi lo idx : Byte} (h : pageCross lo idx = false) : uncarried hi lo idx = indexed hi lo idx := by
  unfold pageCross at h
  unfold uncarried indexed
  have hlt : lo.toNat + idx.toNat < 256 := by
    simp only [decide_eq_false_iff_not] at h; omega
  apply BitVec.eq_of_toNat_eq
  have := hi.isLt
  rw [BitVec.toNat_add, joinBytes_toNat, joinBytes_toNat, BitVec.toNat_add]
  simp only [BitVec.toNat_setWidth]
  omega

/-- The first step of the walks of ABX, ABY and IZY: from the base in `lo` and on `db`, to the final access. -/
theorem indexed_walk {elide : Bool} {access : Access} {idx : Regs → Byte} {u : State} {base : Word}
    (rest : List Row) (hs : u.BusReady) (hlo : u.cpu.lo = loByte base) (hdb : u.cpu.db = hiByte base) (ht : 1 < u.cpu.t)
    (hd : ∀ d, (if elide && !pageCross (loByte base) (idx u.cpu.regs) then none
        else some (uncarried (hiByte base) (loByte base) (idx u.cpu.regs))) = some d → u.readable d = true) :
    ∃ t c rest', u.runRows (rowIndexed1 idx elide access :: rowIndexed2 idx access :: rest) =
        t.runRows ((fun _ => access (indexed (hiByte base) (loByte base) (idx u.cpu.regs)) c) :: rest') ∧
      (elide = false → rest' = rest) ∧ u.cpu.Same c ∧
      c.ea = indexed (hiByte base) (loByte base) (idx u.cpu.regs) ∧ 1 < c.t ∧
      Quiet (if elide && !pageCross (loByte base) (idx u.cpu.regs) then 0 else 1) u t := by
  by_cases he : (elide && !pageCross (loByte base) (idx u.cpu.regs)) = true
  · have hp : pageCross (loByte base) (idx u.cpu.regs) = false := by simp_all
    refine ⟨u, { u.cpu with sync := false, hi := hiByte base, ea := indexed (hiByte base) (loByte base) (idx u.cpu.regs) },
      _, State.runRows_congr _ hs ?_, fun h => by simp [h] at he, ⟨rfl, rfl, rfl, rfl, rfl, rfl⟩, rfl, ht, ?_⟩
    · simp only [drives, rowIndexed1, hdb, hlo, he, if_true, Cpu.accessAt, uncarried_eq_indexed hp]
    · rw [if_pos he]; exact .refl hs.2
  · have hrow : drives (rowIndexed1 idx elide access) u =
        (({ ({ u.cpu with sync := false } : Cpu) with hi := hiByte base } : Cpu).rd
          (uncarried (hiByte base) (loByte base) (idx u.cpu.regs))).next := by
      simp only [drives, rowIndexed1, hdb, hlo]
      rw [if_neg he]
    rw [if_neg he] at hd
    obtain ⟨t, v, n, p, q, hrun, hq, hc, -⟩ := State.runRows_read (r := rowIndexed1 idx elide access)
      (rowIndexed2 idx access :: rest) hs (by rw [hrow]; rfl) (by rw [hrow]; exact hd _ rfl)
      (by rw [hrow]; show u.cpu.t + 1 ≠ 1; omega)
    rw [hrow] at hc
    refine ⟨t, { t.cpu with sync := false, ea := indexed (hiByte base) (loByte base) (idx u.cpu.regs) }, rest, ?_,
      fun _ => rfl, ?_⟩
    · rw [hrun]
      refine State.runRows_congr _ (hq.busReady hs) ?_
      simp only [drives, rowIndexed2, Cpu.accessAt, hc, Cpu.rd, Cpu.next, hlo]
    · rw [if_neg he, hc]
      exact ⟨⟨rfl, rfl, rfl, rfl, rfl, rfl⟩, rfl, by show 1 < u.cpu.t + 1; omega, hq⟩

/-- A reading row whose drive is known, that is not the last. -/
theorem State.runRows_read_of {s : State} {r : Row} {c : Cpu} (rows : List Row) (hs : s.BusReady) (hc : drives r s = c)
    (hr : c.rw = .read) (ha : s.readable c.ab = true) (ht : c.t ≠ 1) :
    ∃ t v n p q, s.runRows (r :: rows) = t.runRows rows ∧ Quiet 1 s t ∧
      t.cpu = { c with db := v, pendingNmi := n, nmiPrev := p, irqLine := q } ∧
      ∀ w, s.peek c.ab = some w → v = w := by
  subst hc; exact State.runRows_read rows hs hr ha ht

theorem Operand.same_start (o : Operand) (s : State) : s.cpu.Same (o.start s).cpu := by
  cases o <;> exact ⟨rfl, rfl, rfl, rfl, rfl, rfl⟩

theorem Operand.quiet_start {o : Operand} {n : Nat} {s t : State} (h : Quiet n (o.start s) t) : Quiet n s t :=
  ⟨h.ram, h.prgRam, h.vram, h.cart, h.fault, h.dma, h.oam, h.written, h.palette, h.cyc, h.safe⟩

theorem dummy_counts (k : Nat) (b : Bool) (d : Word) :
    k + (if b = true then 0 else 1) + 1 =
      k + 1 + (if (if b = true then none else some d : Option Word).isSome = true then 1 else 0) := by
  cases b <;> rfl

/-- Every form with an address reaches its final access there, whatever the access is (rules R191 to R196). -/
theorem Operand.walk {o : Operand} {elide : Bool} {access : Access} {s : State} {a : Word} (rest : List Row)
    (hs : s.BusReady) (ha : o.address s = some a) (hd : ∀ d, o.dummyRead elide s = some d → s.readable d = true) :
    ∃ t c rest', Walked o elide access rest s a t c rest' := by
  cases o with
  | imm b => cases ha
  | zp b =>
    cases ha
    exact ⟨_, { s.cpu with db := b, t := 3, sync := false, ea := zeroPage b }, rest, rfl,
      State.runRows_congr _ hs rfl, fun _ => rfl, ⟨0, Operand.quiet_start (.refl hs.2), rfl⟩, ⟨rfl, rfl, rfl, rfl, rfl, rfl⟩, rfl,
      by show 1 < 3; omega⟩
  | abs w =>
    cases ha
    refine ⟨_, { s.cpu with lo := loByte a, db := hiByte a, hi := hiByte a, t := 4, sync := false, ea := a }, rest, rfl,
      State.runRows_congr _ hs ?_, fun _ => rfl, ⟨0, Operand.quiet_start (.refl hs.2), rfl⟩, ⟨rfl, rfl, rfl, rfl, rfl, rfl⟩, rfl,
      by show 1 < 4; omega⟩
    simp [drives, rowAbs, Cpu.accessAt, Operand.start, State.withCpu, Operand.hold, Cpu.holdWord, Operand.firstCycle,
      Operand.bytes]
  | zpx b =>
    cases ha
    obtain ⟨t, v, n, p, q, hrun, hq, hc, -⟩ := State.runRows_read_of (s := (Operand.zpx b).start s)
      (r := rowZpIndexed1)
      (c := ({ s.cpu with db := b, t := 4, sync := false, ptr := b, ab := zeroPage b, rw := .read } : Cpu))
      ([rowZpIndexed2 Regs.x access] ++ rest) hs rfl rfl (by simp) (by show 4 ≠ 1; omega)
    refine ⟨t, { t.cpu with sync := false, ea := zeroPage (b + s.cpu.regs.x) }, rest, rfl, hrun.trans ?_, fun _ => rfl,
      ⟨1, Operand.quiet_start hq, rfl⟩,
      ?_, rfl, ?_⟩
    · exact State.runRows_congr _ (hq.busReady hs) (by simp only [drives, rowZpIndexed2, Cpu.accessAt, hc])
    · rw [hc]; exact ⟨rfl, rfl, rfl, rfl, rfl, rfl⟩
    · rw [hc]; show 1 < 4; omega
  | zpy b =>
    cases ha
    obtain ⟨t, v, n, p, q, hrun, hq, hc, -⟩ := State.runRows_read_of (s := (Operand.zpy b).start s)
      (r := rowZpIndexed1)
      (c := ({ s.cpu with db := b, t := 4, sync := false, ptr := b, ab := zeroPage b, rw := .read } : Cpu))
      ([rowZpIndexed2 Regs.y access] ++ rest) hs rfl rfl (by simp) (by show 4 ≠ 1; omega)
    refine ⟨t, { t.cpu with sync := false, ea := zeroPage (b + s.cpu.regs.y) }, rest, rfl, hrun.trans ?_, fun _ => rfl,
      ⟨1, Operand.quiet_start hq, rfl⟩,
      ?_, rfl, ?_⟩
    · exact State.runRows_congr _ (hq.busReady hs) (by simp only [drives, rowZpIndexed2, Cpu.accessAt, hc])
    · rw [hc]; exact ⟨rfl, rfl, rfl, rfl, rfl, rfl⟩
    · rw [hc]; show 1 < 4; omega
  | abx w =>
    cases ha
    obtain ⟨t, c, rest', hrun, hrest, hsame, hea, ht, hq⟩ := indexed_walk (elide := elide) (access := access)
      (idx := Regs.x) (u := (Operand.abx w).start s) (base := w) rest hs rfl rfl (by show 1 < 4; omega) hd
    refine ⟨t, c, rest', rfl, hrun, hrest, ⟨_, Operand.quiet_start hq, ?_⟩, (Operand.same_start _ s).trans hsame, hea, ht⟩
    have := dummy_counts 0 (elide && !pageCross (loByte w) s.cpu.regs.x) (uncarried (hiByte w) (loByte w) s.cpu.regs.x)
    rw [Nat.zero_add, Nat.zero_add] at this
    exact this
  | aby w =>
    cases ha
    obtain ⟨t, c, rest', hrun, hrest, hsame, hea, ht, hq⟩ := indexed_walk (elide := elide) (access := access)
      (idx := Regs.y) (u := (Operand.aby w).start s) (base := w) rest hs rfl rfl (by show 1 < 4; omega) hd
    refine ⟨t, c, rest', rfl, hrun, hrest, ⟨_, Operand.quiet_start hq, ?_⟩, (Operand.same_start _ s).trans hsame, hea, ht⟩
    have := dummy_counts 0 (elide && !pageCross (loByte w) s.cpu.regs.y) (uncarried (hiByte w) (loByte w) s.cpu.regs.y)
    rw [Nat.zero_add, Nat.zero_add] at this
    exact this
  | izx b =>
    cases ha
    obtain ⟨t1, v1, n1, p1, q1, run1, k1, c1, -⟩ := State.runRows_read_of (s := (Operand.izx b).start s)
      (r := rowIzxDummy)
      (c := ({ s.cpu with db := b, t := 4, sync := false, ptr := b, ab := zeroPage b, rw := .read } : Cpu))
      ([rowIzxLo, rowPtrHi, rowAbs access] ++ rest) hs rfl rfl (by simp) (by show 4 ≠ 1; omega)
    obtain ⟨t2, v2, n2, p2, q2, run2, k2, c2, w2⟩ := State.runRows_read_of (s := t1) (r := rowIzxLo)
      (c := ({ t1.cpu with t := 5, sync := false, ptr := b + s.cpu.regs.x, ab := zeroPage (b + s.cpu.regs.x),
                           rw := .read } : Cpu))
      ([rowPtrHi, rowAbs access] ++ rest) (k1.busReady hs) (by simp only [drives, rowIzxLo, c1, Cpu.rd, Cpu.next]) rfl
      (by simp) (by show 5 ≠ 1; omega)
    obtain ⟨t3, v3, n3, p3, q3, run3, k3, c3, w3⟩ := State.runRows_read_of (s := t2) (r := rowPtrHi)
      (c := ({ t2.cpu with t := 6, sync := false, lo := v2, ab := zeroPage (b + s.cpu.regs.x + 1), rw := .read } : Cpu))
      ([rowAbs access] ++ rest) (k2.busReady (k1.busReady hs)) (by simp only [drives, rowPtrHi, c2, Cpu.rd, Cpu.next]) rfl
      (by simp) (by show 6 ≠ 1; omega)
    have r1 : t1.ram = s.ram := k1.ram
    have r2 : t2.ram = s.ram := k2.ram.trans r1
    have e2 : v2 = s.ram.read (b + s.cpu.regs.x).toNat := by rw [w2 _ (State.peek_zeroPage ..), r1]
    have e3 : v3 = s.ram.read (b + s.cpu.regs.x + 1).toNat := by rw [w3 _ (State.peek_zeroPage ..), r2]
    have hq := (k1.trans k2).trans k3
    refine ⟨t3, { t3.cpu with sync := false, hi := v3, ea := s.zeroPagePointer (b + s.cpu.regs.x) }, rest, rfl,
      run1.trans (run2.trans (run3.trans ?_)), fun _ => rfl,
      ⟨3, Operand.quiet_start hq, rfl⟩,
      ?_, rfl, ?_⟩
    · refine State.runRows_congr _ (k3.busReady (k2.busReady (k1.busReady hs))) ?_
      simp only [drives, rowAbs, Cpu.accessAt, c3, e2, e3, State.zeroPagePointer]
    · rw [c3, c2, c1]; exact ⟨rfl, rfl, rfl, rfl, rfl, rfl⟩
    · rw [c3]; show 1 < 6; omega
  | izy b =>
    cases ha
    obtain ⟨t1, v1, n1, p1, q1, run1, k1, c1, w1⟩ := State.runRows_read_of (s := (Operand.izy b).start s)
      (r := rowIzyLo)
      (c := ({ s.cpu with db := b, t := 4, sync := false, ptr := b, ab := zeroPage b, rw := .read } : Cpu))
      ([rowPtrHi, rowIndexed1 Regs.y elide access, rowIndexed2 Regs.y access] ++ rest) hs rfl rfl (by simp)
      (by show 4 ≠ 1; omega)
    obtain ⟨t2, v2, n2, p2, q2, run2, k2, c2, w2⟩ := State.runRows_read_of (s := t1) (r := rowPtrHi)
      (c := ({ t1.cpu with t := 5, sync := false, lo := v1, ab := zeroPage (b + 1), rw := .read } : Cpu))
      ([rowIndexed1 Regs.y elide access, rowIndexed2 Regs.y access] ++ rest) (k1.busReady hs)
      (by simp only [drives, rowPtrHi, c1, Cpu.rd, Cpu.next]) rfl (by simp) (by show 5 ≠ 1; omega)
    have r1 : t1.ram = s.ram := k1.ram
    have e1 : v1 = s.ram.read b.toNat := w1 _ (State.peek_zeroPage ..)
    have e2 : v2 = s.ram.read (b + 1).toNat := by rw [w2 _ (State.peek_zeroPage ..), r1]
    have hx : t2.cpu.regs = s.cpu.regs := by rw [c2, c1]
    obtain ⟨t, c, rest', hrun, hrest, hsame, hea, ht, hq⟩ := indexed_walk (elide := elide) (access := access)
      (idx := Regs.y) (u := t2) (base := s.zeroPagePointer b) rest (k2.busReady (k1.busReady hs))
      (by rw [c2, e1]; simp [State.zeroPagePointer]) (by rw [c2, e2]; simp [State.zeroPagePointer])
      (by rw [c2]; show 1 < 5; omega)
      (by intro d h; rw [hx] at h; rw [k2.readable, k1.readable]; exact hd d h)
    rw [hx] at hrun hea hq
    have hq' := (k1.trans k2).trans hq
    refine ⟨t, c, rest', rfl, run1.trans (run2.trans hrun), hrest,
      ⟨_, Operand.quiet_start hq', ?_⟩, ?_, hea, ht⟩
    · exact dummy_counts 2 _ _
    · refine Cpu.Same.trans ?_ hsame
      rw [c2, c1]; exact ⟨rfl, rfl, rfl, rfl, rfl, rfl⟩

end Sys2Proof.Machine
end

