-- ==== Sys2Proof/Laws/Exec.lean ====
section
/-! SUPPORT. Every meaning is its shape: exec in one equation, and the state a boundary leaves. -/

namespace Sys2Proof.Machine

/-- The meaning a shape has. -/
def Form.run : Form → State → Result
  | .readUse op o => Machine.readUse op o
  | .store r o => Machine.store r o
  | .rmw op o => rmwMemory op o
  | .rmwAcc op => rmwAccumulator op
  | .single op => Machine.single op
  | .branch k off => Machine.branch k off
  | .pha => pushA
  | .php => pushP
  | .pla => pullA
  | .plp => pullP
  | .jmp a => jump a
  | .jmpInd a => jumpIndirect a
  | .jsr a => jumpSubroutine a
  | .rts => returnSubroutine
  | .brk => breakInstruction
  | .rti => returnInterrupt

theorem exec_form (i : Instr) (s : State) : exec i s = (formOf i).run s := by cases i <;> rfl

/-! ## The boundary -/

@[simp] theorem State.commit_ram (s : State) : s.commit.ram = s.ram := rfl
@[simp] theorem State.commit_prgRam (s : State) : s.commit.prgRam = s.prgRam := rfl
@[simp] theorem State.commit_vram (s : State) : s.commit.vram = s.vram := rfl
@[simp] theorem State.commit_cart (s : State) : s.commit.cart = s.cart := rfl
@[simp] theorem State.commit_fault (s : State) : s.commit.fault = s.fault := rfl
@[simp] theorem State.commit_dma (s : State) : s.commit.dma = s.dma := rfl
@[simp] theorem State.commit_ctl (s : State) : s.commit.ctl = s.ctl := rfl
@[simp] theorem State.commit_ppu (s : State) : s.commit.ppu = s.ppu := rfl
@[simp] theorem State.commit_apu (s : State) : s.commit.apu = s.apu := rfl
@[simp] theorem State.commit_cyc (s : State) : s.commit.cyc = s.cyc := rfl
@[simp] theorem State.commit_cpu (s : State) : s.commit.cpu = s.cpu.runDeferred := rfl
@[simp] theorem State.commit_peek (s : State) (a : Word) : s.commit.peek a = s.peek a := rfl

theorem Cpu.runDeferred_none {c : Cpu} (h : c.deferred = .none) : c.runDeferred = c := by
  unfold Cpu.runDeferred; rw [h]

/-- A deferred action changes registers and itself only. -/
theorem Cpu.runDeferred_frame (c : Cpu) :
    c.runDeferred.deferred = .none ∧ c.runDeferred.t = c.t ∧ c.runDeferred.db = c.db ∧ c.runDeferred.m = c.m ∧
      c.runDeferred.pendingReset = c.pendingReset ∧ c.runDeferred.resetLine = c.resetLine ∧
      c.runDeferred.intKind = c.intKind ∧ c.runDeferred.ir = c.ir := by
  unfold Cpu.runDeferred
  split
  · exact ⟨‹_›, rfl, rfl, rfl, rfl, rfl, rfl, rfl⟩
  all_goals exact ⟨rfl, rfl, rfl, rfl, rfl, rfl, rfl, rfl⟩

theorem Quiet.untouched {n : Nat} {s t : State} (h : Quiet n s t) (hp : t.cpu.pendingReset = s.cpu.pendingReset)
    (hr : t.cpu.resetLine = s.cpu.resetLine) : Untouched s t.commit := by
  obtain ⟨-, -, -, -, f1, f2, -, -⟩ := t.cpu.runDeferred_frame
  exact ⟨h.vram, h.oam, h.palette, h.written, h.cart, h.fault, h.dma, f1.trans hp, f2.trans hr⟩

end Sys2Proof.Machine
end

