-- ==== Sys2Proof/Laws/Exception.lean ====
section
/-! SUPPORT. The stack rows, taking an exception and returning from one (rules R182, R330, R331, R530). -/

namespace Sys2Proof.Machine

/-! ## Stack rows -/

/-- The state with its RAM replaced. -/
def State.withRam (s : State) (m : Memory) : State := { s with ram := m }

/-- A writing row to the stack. -/
theorem State.cycle_push {s : State} {r : Row} {c : Cpu} {x v : Byte} (hs : s.BusReady) (hc : drives r s = c)
    (hw : c.rw = .write) (ha : c.ab = stackAddr x) (hv : c.db = v) :
    ∃ t n p q, s.cycle r = .ok t ∧ Quiet 1 (s.withRam (s.ram.write (256 + x.toNat) v)) t ∧
      t.cpu = { c with pendingNmi := n, nmiPrev := p, irqLine := q } := by
  subst hc
  obtain ⟨t, h, k⟩ := State.cycle_write hs hw (by rw [ha]; exact s.writable_stack x)
  obtain ⟨n, p, q, hc⟩ := k.cpu
  have hram := k.ram
  have hprg := k.prgRam
  simp only [State.withCpu, ha, hv, cpuTarget_stackAddr] at hram hprg
  have hnp : ∀ r' : BitVec 3, cpuTarget (s.withCpu (drives r s)).cpu.ab ≠ .ppu r' := by
    intro r'
    show cpuTarget (drives r s).ab ≠ _
    rw [ha, cpuTarget_stackAddr]; exact fun h => by cases h
  exact ⟨t, n, p, q, h, ⟨hram, hprg, k.vram, k.cart, k.fault, k.dma, k.oam hnp, k.written hnp, k.palette, k.cyc, k.safe⟩, hc⟩

/-- A pushing row that is not the last. -/
theorem State.runRows_push {s : State} {r : Row} {c : Cpu} {x v : Byte} (rows : List Row) (hs : s.BusReady)
    (hc : drives r s = c) (hw : c.rw = .write) (ha : c.ab = stackAddr x) (hv : c.db = v) (ht : c.t ≠ 1) :
    ∃ t n p q, s.runRows (r :: rows) = t.runRows rows ∧ Quiet 1 (s.withRam (s.ram.write (256 + x.toNat) v)) t ∧
      t.cpu = { c with pendingNmi := n, nmiPrev := p, irqLine := q } := by
  obtain ⟨t, n, p, q, h, k, hc⟩ := State.cycle_push hs hc hw ha hv
  exact ⟨t, n, p, q, State.runRows_more h (by rw [hc]; exact ht), k, hc⟩

/-- The last pushing row. -/
theorem State.runRows_push_last {s : State} {r : Row} {c : Cpu} {x v : Byte} (rows : List Row) (hs : s.BusReady)
    (hc : drives r s = c) (hw : c.rw = .write) (ha : c.ab = stackAddr x) (hv : c.db = v) (ht : c.t = 1) :
    ∃ t n p q, s.runRows (r :: rows) = .ok t.commit ∧ Quiet 1 (s.withRam (s.ram.write (256 + x.toNat) v)) t ∧
      t.cpu = { c with pendingNmi := n, nmiPrev := p, irqLine := q } := by
  obtain ⟨t, n, p, q, h, k, hc⟩ := State.cycle_push hs hc hw ha hv
  exact ⟨t, n, p, q, State.runRows_last h (by rw [hc]; exact ht), k, hc⟩

/-- The last reading row, its drive known. -/
theorem State.runRows_read_last_of {s : State} {r : Row} {c : Cpu} (rows : List Row) (hs : s.BusReady) (hc : drives r s = c)
    (hr : c.rw = .read) (ha : s.readable c.ab = true) (ht : c.t = 1) :
    ∃ t v n p q, s.runRows (r :: rows) = .ok t.commit ∧ Quiet 1 s t ∧
      t.cpu = { c with db := v, pendingNmi := n, nmiPrev := p, irqLine := q } ∧
      ∀ w, s.peek c.ab = some w → v = w := by
  subst hc; exact State.runRows_read_last rows hs hr ha ht

theorem Quiet.withRam {n : Nat} {s t : State} (h : Quiet n s t) (m : Memory) : Quiet n (s.withRam m) (t.withRam m) :=
  ⟨rfl, h.prgRam, h.vram, h.cart, h.fault, h.dma, h.oam, h.written, h.palette, h.cyc, h.safe⟩

theorem Quiet.trans_ram {m n : Nat} {s t u : State} {r : Memory} (h : Quiet m s t) (k : Quiet n (t.withRam r) u) :
    Quiet (m + n) (s.withRam r) u := (h.withRam r).trans k

theorem Quiet.of_withCpu {n : Nat} {s t : State} {c : Cpu} (h : Quiet n (s.withCpu c) t) : Quiet n s t :=
  ⟨h.ram, h.prgRam, h.vram, h.cart, h.fault, h.dma, h.oam, h.written, h.palette, h.cyc, h.safe⟩

theorem peek_vector (s : State) (k : IntKind) :
    (∃ l, s.peek (vectorOf k) = some l) ∧ ∃ h, s.peek (vectorOf k + 1) = some h := by
  cases k <;> exact ⟨⟨_, rfl⟩, ⟨_, rfl⟩⟩

/-- The stack as the three pushes of the interrupt sequence leave it. -/
def pushed3 (m : Memory) (s a b c : Byte) : Memory :=
  ((m.write (256 + s.toNat) a).write (256 + (s - 1).toNat) b).write (256 + (s - 1 - 1).toNat) c

/-! The stack after the pushes. -/

/-- The three bytes pushed are read back. -/
theorem pushed3_reads {m : Memory} (hm : m.wf = true) (s a b c : Byte) :
    (pushed3 m s a b c).read (256 + s.toNat) = a ∧ (pushed3 m s a b c).read (256 + (s - 1).toNat) = b ∧
    (pushed3 m s a b c).read (256 + (s - 1 - 1).toNat) = c := by
  have n1 : (256 + s.toNat) ≠ 256 + (s - 1).toNat := by bv_omega
  have n2 : (256 + s.toNat) ≠ 256 + (s - 1 - 1).toNat := by bv_omega
  have n3 : 256 + (s - 1).toNat ≠ 256 + (s - 1 - 1).toNat := by bv_omega
  unfold pushed3
  refine ⟨?_, ?_, ?_⟩
  · rw [Memory.read_write_other _ n2, Memory.read_write_other _ n1, Memory.read_write_same hm]
  · rw [Memory.read_write_other _ n3, Memory.read_write_same (Memory.wf_write hm _ _)]
  · rw [Memory.read_write_same (Memory.wf_write (Memory.wf_write hm _ _) _ _)]

theorem stackCell_eq (s k : Byte) : stackCell s k = .ram (256 + (s - k).toNat) := by simp [stackCell]

/-- Nothing but the three stack cells changes. -/
theorem pushed3_same {s : State} {x a b c : Byte} (u : Word)
    (hu : s.cellOf u ∉ [stackCell x 0, stackCell x 1, stackCell x 2]) :
    (s.withRam (pushed3 s.ram x a b c)).peek u = s.peek u := by
  unfold State.cellOf at hu
  unfold State.peek
  cases hT : cpuTarget u <;> simp only [hT] at hu ⊢ <;> try rfl
  rename_i k
  simp only [stackCell_eq, List.mem_cons, Target.ram.injEq, List.not_mem_nil, or_false, not_or] at hu
  obtain ⟨h0, h1, h2⟩ := hu
  have e : x - 1 - 1 = x - 2 := by bv_omega
  show some ((pushed3 s.ram x a b c).read k) = _
  unfold pushed3
  rw [e, Memory.read_write_other _ h2, Memory.read_write_other _ h1, Memory.read_write_other _ (by simpa using h0)]

theorem peek_vector_withRam (s : State) (m : Memory) (k : IntKind) : (s.withRam m).peek (vectorOf k) = s.peek (vectorOf k) ∧
    (s.withRam m).peek (vectorOf k + 1) = s.peek (vectorOf k + 1) := by
  cases k <;> exact ⟨rfl, rfl⟩

theorem Cpu.runDeferred_jump {c : Cpu} {l : Byte} (h : c.deferred = .jump l) :
    c.runDeferred.regs = { c.regs with pc := joinBytes c.db l } := by
  unfold Cpu.runDeferred; rw [h]; rfl

/-- Taking BRK, NMI or IRQ (rule R530). -/
theorem takeInterrupt_next {s : State} {k : IntKind} (hs : s.BusReady) (hr : s.readable s.cpu.regs.pc = true)
    (hk : k ≠ .reset) :
    ∃ t l h, s.takeInterrupt k = .ok t ∧ s.peek (vectorOf k) = some l ∧ s.peek (vectorOf k + 1) = some h ∧
      t.cpu.regs = { s.cpu.regs with s := s.cpu.regs.s - 3, pc := joinBytes h l, p := { s.cpu.regs.p with i := true } } ∧
      t.cpu.t = 1 ∧ t.cpu.deferred = .none ∧ t.cpu.intKind = .none ∧ t.cpu.pendingReset = s.cpu.pendingReset ∧
      t.cpu.resetLine = s.cpu.resetLine ∧
      Quiet 6 (s.withRam (
        let pc := if k = .brk then s.cpu.regs.pc + 1 else s.cpu.regs.pc
        pushed3 s.ram s.cpu.regs.s (hiByte pc) (loByte pc) (s.cpu.regs.p.toByte (decide (k = .brk))))) t := by
  set pc := if k = .brk then s.cpu.regs.pc + 1 else s.cpu.regs.pc with hpc
  obtain ⟨⟨l, hl⟩, ⟨h, hh⟩⟩ := peek_vector s k
  set s0 := s.withCpu { s.cpu with intKind := k, t := 2 } with hs0
  have d1 : drives rowIntFetch s0 = ({ s.cpu with
      intKind := k, t := 3, sync := false, ab := s.cpu.regs.pc, rw := .read, regs := { s.cpu.regs with pc := pc } } : Cpu) := by
    simp only [drives, rowIntFetch, hs0, State.withCpu, hpc]
    by_cases hb : k = .brk
    · simp only [hb, if_true]; rfl
    · simp only [hb, if_false]; rfl
  obtain ⟨t1, v1, n1, p1, q1, r1, k1, c1, -⟩ := State.runRows_read_of (s := s0) (r := rowIntFetch)
    [rowIntPushHi, rowIntPushLo, rowIntPushP, rowIntVectorLo, rowIntVectorHi] hs d1 rfl hr (by show 3 ≠ 1; omega)
  have k1' : Quiet 1 s t1 := k1.of_withCpu
  have b1 := k1'.busReady hs
  obtain ⟨t2, n2, p2, q2, r2, k2, c2⟩ := State.runRows_push (s := t1) (r := rowIntPushHi) (x := s.cpu.regs.s) (v := hiByte pc)
    (c := { t1.cpu with t := 4, sync := false, ab := stackAddr s.cpu.regs.s, rw := .write, db := hiByte pc,
                        regs := { s.cpu.regs with pc := pc, s := s.cpu.regs.s - 1 } })
    [rowIntPushLo, rowIntPushP, rowIntVectorLo, rowIntVectorHi] b1
    (by simp only [drives, rowIntPushHi, c1, Cpu.pushOrRead, hk, if_false, Cpu.push, Cpu.wr, Cpu.setS, Cpu.next])
    rfl rfl rfl (by show 4 ≠ 1; omega)
  have k2' := k1'.trans_ram k2
  rw [k1'.ram] at k2'
  have b2 : t2.BusReady := k2'.busReady hs
  obtain ⟨t3, n3, p3, q3, r3, k3, c3⟩ := State.runRows_push (s := t2) (r := rowIntPushLo) (x := s.cpu.regs.s - 1) (v := loByte pc)
    (c := { t2.cpu with t := 5, sync := false, ab := stackAddr (s.cpu.regs.s - 1), rw := .write, db := loByte pc,
                        regs := { s.cpu.regs with pc := pc, s := s.cpu.regs.s - 1 - 1 } })
    [rowIntPushP, rowIntVectorLo, rowIntVectorHi] b2
    (by simp only [drives, rowIntPushLo, c2, c1, Cpu.pushOrRead, hk, if_false, Cpu.push, Cpu.wr, Cpu.setS, Cpu.next])
    rfl rfl rfl (by show 5 ≠ 1; omega)
  have k3' := k2'.trans_ram k3
  rw [k2'.ram] at k3'
  have b3 : t3.BusReady := k3'.busReady hs
  obtain ⟨t4, n4, p4, q4, r4, k4, c4⟩ := State.runRows_push (s := t3) (r := rowIntPushP) (x := s.cpu.regs.s - 1 - 1)
    (v := s.cpu.regs.p.toByte (decide (k = .brk)))
    (c := { t3.cpu with t := 6, sync := false, ab := stackAddr (s.cpu.regs.s - 1 - 1), rw := .write,
                        db := s.cpu.regs.p.toByte (decide (k = .brk)),
                        regs := { s.cpu.regs with pc := pc, s := s.cpu.regs.s - 1 - 1 - 1 } })
    [rowIntVectorLo, rowIntVectorHi] b3
    (by simp only [drives, rowIntPushP, c3, c2, c1, Cpu.pushOrRead, hk, if_false, Cpu.push, Cpu.wr, Cpu.setS, Cpu.next])
    rfl rfl rfl (by show 6 ≠ 1; omega)
  have k4' := k3'.trans_ram k4
  rw [k3'.ram] at k4'
  have b4 : t4.BusReady := k4'.busReady hs
  obtain ⟨t5, v5, n5, p5, q5, r5, k5, c5, w5⟩ := State.runRows_read_of (s := t4) (r := rowIntVectorLo)
    (c := { t4.cpu with t := 7, sync := false, ea := vectorOf k, ab := vectorOf k, rw := .read,
                        regs := { s.cpu.regs with pc := pc, s := s.cpu.regs.s - 1 - 1 - 1, p := { s.cpu.regs.p with i := true } } })
    [rowIntVectorHi] b4
    (by simp only [drives, rowIntVectorLo, c4, c3, c2, c1, Cpu.rd, Cpu.setP, Cpu.next])
    rfl (t4.readable_vector k).1 (by show 7 ≠ 1; omega)
  have k5' := k4'.trans k5
  have b5 : t5.BusReady := k5'.busReady hs
  have e5 : v5 = l := w5 l (by rw [k4'.peek]; exact ((peek_vector_withRam s _ k).1).trans hl)
  obtain ⟨t6, v6, n6, p6, q6, r6, k6, c6, w6⟩ := State.runRows_read_last_of (s := t5) (r := rowIntVectorHi)
    (c := { t5.cpu with t := 1, sync := false, lo := l, ab := vectorOf k + 1, rw := .read, deferred := .jump l, intKind := .none })
    [] b5
    (by simp only [drives, rowIntVectorHi, c5, e5, Cpu.rd, Cpu.last])
    rfl (t5.readable_vector k).2 rfl
  have k6' := k5'.trans k6
  have e6 : v6 = h := w6 h (by rw [k5'.peek]; exact ((peek_vector_withRam s _ k).2).trans hh)
  have hrun : s.takeInterrupt k = .ok t6.commit := by
    show s0.runRows interruptRows = _
    rw [interruptRows, r1, r2, r3, r4, r5, r6]
  have g1 : t1.cpu.pendingReset = s.cpu.pendingReset ∧ t1.cpu.resetLine = s.cpu.resetLine := by rw [c1]; exact ⟨rfl, rfl⟩
  have g2 : t2.cpu.pendingReset = s.cpu.pendingReset ∧ t2.cpu.resetLine = s.cpu.resetLine := by rw [c2]; exact g1
  have g3 : t3.cpu.pendingReset = s.cpu.pendingReset ∧ t3.cpu.resetLine = s.cpu.resetLine := by rw [c3]; exact g2
  have g4 : t4.cpu.pendingReset = s.cpu.pendingReset ∧ t4.cpu.resetLine = s.cpu.resetLine := by rw [c4]; exact g3
  have g5 : t5.cpu.pendingReset = s.cpu.pendingReset ∧ t5.cpu.resetLine = s.cpu.resetLine := by rw [c5]; exact g4
  have g6 : t6.cpu.pendingReset = s.cpu.pendingReset ∧ t6.cpu.resetLine = s.cpu.resetLine := by rw [c6]; exact g5
  refine ⟨t6.commit, l, h, hrun, hl, hh, ?_, ?_, ?_, ?_, ?_, ?_, ?_⟩
  · show t6.cpu.runDeferred.regs = _
    have e1 : t6.cpu.deferred = .jump l := by rw [c6]
    have e2 : t6.cpu.db = h := by rw [c6]; exact e6
    have e3 : t6.cpu.regs = t5.cpu.regs := by rw [c6]
    have : s.cpu.regs.s - 1 - 1 - 1 = s.cpu.regs.s - 3 := by bv_omega
    rw [Cpu.runDeferred_jump e1, e2, e3, c5, this]
  · show t6.cpu.runDeferred.t = 1
    rw [t6.cpu.runDeferred_frame.2.1, c6]
  · exact t6.cpu.runDeferred_frame.1
  · show t6.cpu.runDeferred.intKind = _
    rw [t6.cpu.runDeferred_frame.2.2.2.2.2.2.1, c6]
  · show t6.cpu.runDeferred.pendingReset = _
    rw [t6.cpu.runDeferred_frame.2.2.2.2.1]
    exact g6.1
  · show t6.cpu.runDeferred.resetLine = _
    rw [t6.cpu.runDeferred_frame.2.2.2.2.2.1]
    exact g6.2
  · exact ⟨k6'.ram, k6'.prgRam, k6'.vram, k6'.cart, k6'.fault, k6'.dma, k6'.oam, k6'.written, k6'.palette, k6'.cyc, k6'.safe⟩

/-- The reset sequence (rule R530): the pushes are reads. -/
theorem takeInterrupt_reset {s : State} (hs : s.BusReady) (hr : s.readable s.cpu.regs.pc = true) :
    ∃ t l h, s.takeInterrupt .reset = .ok t ∧ s.peek 0xFFFC = some l ∧ s.peek 0xFFFD = some h ∧
      t.cpu.regs = { s.cpu.regs with s := s.cpu.regs.s - 3, pc := joinBytes h l, p := { s.cpu.regs.p with i := true } } ∧
      t.cpu.t = 1 ∧ t.cpu.deferred = .none ∧ t.cpu.intKind = .none ∧ t.cpu.pendingReset = s.cpu.pendingReset ∧
      t.cpu.resetLine = s.cpu.resetLine ∧ Quiet 6 s t := by
  obtain ⟨⟨l, hl⟩, ⟨h, hh⟩⟩ := peek_vector s .reset
  set s0 := s.withCpu { s.cpu with intKind := .reset, t := 2 } with hs0
  have d1 : drives rowIntFetch s0 = ({ s.cpu with
      intKind := .reset, t := 3, sync := false, ab := s.cpu.regs.pc, rw := .read } : Cpu) := by
    simp only [drives, rowIntFetch, hs0, State.withCpu]; rfl
  obtain ⟨t1, v1, n1, p1, q1, r1, k1, c1, -⟩ := State.runRows_read_of (s := s0) (r := rowIntFetch)
    [rowIntPushHi, rowIntPushLo, rowIntPushP, rowIntVectorLo, rowIntVectorHi] hs d1 rfl hr (by show 3 ≠ 1; omega)
  have k1' : Quiet 1 s t1 := k1.of_withCpu
  have b1 := k1'.busReady hs
  obtain ⟨t2, v2, n2, p2, q2, r2, k2, c2, -⟩ := State.runRows_read_of (s := t1) (r := rowIntPushHi)
    (c := { t1.cpu with t := 4, sync := false, ab := stackAddr s.cpu.regs.s, rw := .read,
                        regs := { s.cpu.regs with s := s.cpu.regs.s - 1 } })
    [rowIntPushLo, rowIntPushP, rowIntVectorLo, rowIntVectorHi] b1
    (by simp only [drives, rowIntPushHi, c1, Cpu.pushOrRead, if_true, Cpu.rdStack, Cpu.rd, Cpu.setS, Cpu.next])
    rfl (t1.readable_stack _) (by show 4 ≠ 1; omega)
  have k2' := k1'.trans k2
  have b2 : t2.BusReady := k2'.busReady hs
  obtain ⟨t3, v3, n3, p3, q3, r3, k3, c3, -⟩ := State.runRows_read_of (s := t2) (r := rowIntPushLo)
    (c := { t2.cpu with t := 5, sync := false, ab := stackAddr (s.cpu.regs.s - 1), rw := .read,
                        regs := { s.cpu.regs with s := s.cpu.regs.s - 1 - 1 } })
    [rowIntPushP, rowIntVectorLo, rowIntVectorHi] b2
    (by simp only [drives, rowIntPushLo, c2, c1, Cpu.pushOrRead, if_true, Cpu.rdStack, Cpu.rd, Cpu.setS, Cpu.next])
    rfl (t2.readable_stack _) (by show 5 ≠ 1; omega)
  have k3' := k2'.trans k3
  have b3 : t3.BusReady := k3'.busReady hs
  obtain ⟨t4, v4, n4, p4, q4, r4, k4, c4, -⟩ := State.runRows_read_of (s := t3) (r := rowIntPushP)
    (c := { t3.cpu with t := 6, sync := false, ab := stackAddr (s.cpu.regs.s - 1 - 1), rw := .read,
                        regs := { s.cpu.regs with s := s.cpu.regs.s - 1 - 1 - 1 } })
    [rowIntVectorLo, rowIntVectorHi] b3
    (by simp only [drives, rowIntPushP, c3, c2, c1, Cpu.pushOrRead, if_true, Cpu.rdStack, Cpu.rd, Cpu.setS, Cpu.next])
    rfl (t3.readable_stack _) (by show 6 ≠ 1; omega)
  have k4' := k3'.trans k4
  have b4 : t4.BusReady := k4'.busReady hs
  obtain ⟨t5, v5, n5, p5, q5, r5, k5, c5, w5⟩ := State.runRows_read_of (s := t4) (r := rowIntVectorLo)
    (c := { t4.cpu with t := 7, sync := false, ea := 0xFFFC, ab := 0xFFFC, rw := .read,
                        regs := { s.cpu.regs with s := s.cpu.regs.s - 1 - 1 - 1, p := { s.cpu.regs.p with i := true } } })
    [rowIntVectorHi] b4
    (by simp only [drives, rowIntVectorLo, c4, c3, c2, c1, Cpu.rd, Cpu.setP, Cpu.next, vectorOf])
    rfl (t4.readable_vector .reset).1 (by show 7 ≠ 1; omega)
  have k5' := k4'.trans k5
  have b5 : t5.BusReady := k5'.busReady hs
  have e5 : v5 = l := w5 l (by rw [k4'.peek]; exact hl)
  obtain ⟨t6, v6, n6, p6, q6, r6, k6, c6, w6⟩ := State.runRows_read_last_of (s := t5) (r := rowIntVectorHi)
    (c := { t5.cpu with t := 1, sync := false, lo := l, ab := 0xFFFC + 1, rw := .read, deferred := .jump l, intKind := .none })
    [] b5
    (by simp only [drives, rowIntVectorHi, c5, e5, Cpu.rd, Cpu.last])
    rfl (t5.readable_vector .reset).2 rfl
  have k6' := k5'.trans k6
  have e6 : v6 = h := w6 h (by rw [k5'.peek]; exact hh)
  have hrun : s.takeInterrupt .reset = .ok t6.commit := by
    show s0.runRows interruptRows = _
    rw [interruptRows, r1, r2, r3, r4, r5, r6]
  have g1 : t1.cpu.pendingReset = s.cpu.pendingReset ∧ t1.cpu.resetLine = s.cpu.resetLine := by rw [c1]; exact ⟨rfl, rfl⟩
  have g2 : t2.cpu.pendingReset = s.cpu.pendingReset ∧ t2.cpu.resetLine = s.cpu.resetLine := by rw [c2]; exact g1
  have g3 : t3.cpu.pendingReset = s.cpu.pendingReset ∧ t3.cpu.resetLine = s.cpu.resetLine := by rw [c3]; exact g2
  have g4 : t4.cpu.pendingReset = s.cpu.pendingReset ∧ t4.cpu.resetLine = s.cpu.resetLine := by rw [c4]; exact g3
  have g5 : t5.cpu.pendingReset = s.cpu.pendingReset ∧ t5.cpu.resetLine = s.cpu.resetLine := by rw [c5]; exact g4
  have g6 : t6.cpu.pendingReset = s.cpu.pendingReset ∧ t6.cpu.resetLine = s.cpu.resetLine := by rw [c6]; exact g5
  refine ⟨t6.commit, l, h, hrun, hl, hh, ?_, ?_, ?_, ?_, ?_, ?_, ?_⟩
  · show t6.cpu.runDeferred.regs = _
    have e1 : t6.cpu.deferred = .jump l := by rw [c6]
    have e2 : t6.cpu.db = h := by rw [c6]; exact e6
    have e3 : t6.cpu.regs = t5.cpu.regs := by rw [c6]
    have : s.cpu.regs.s - 1 - 1 - 1 = s.cpu.regs.s - 3 := by bv_omega
    rw [Cpu.runDeferred_jump e1, e2, e3, c5, this]
  · show t6.cpu.runDeferred.t = 1
    rw [t6.cpu.runDeferred_frame.2.1, c6]
  · exact t6.cpu.runDeferred_frame.1
  · show t6.cpu.runDeferred.intKind = _
    rw [t6.cpu.runDeferred_frame.2.2.2.2.2.2.1, c6]
  · show t6.cpu.runDeferred.pendingReset = _
    rw [t6.cpu.runDeferred_frame.2.2.2.2.1]; exact g6.1
  · show t6.cpu.runDeferred.resetLine = _
    rw [t6.cpu.runDeferred_frame.2.2.2.2.2.1]; exact g6.2
  · exact ⟨k6'.ram, k6'.prgRam, k6'.vram, k6'.cart, k6'.fault, k6'.dma, k6'.oam, k6'.written, k6'.palette, k6'.cyc, k6'.safe⟩

/-- Returning from an interrupt (rule R331). -/
theorem returnFromInterrupt_next {s : State} {v l h : Byte} (hs : s.BusReady) (hr : s.readable s.cpu.regs.pc = true)
    (hv : s.peek (stackAddr (s.cpu.regs.s + 1)) = some v) (hl : s.peek (stackAddr (s.cpu.regs.s + 2)) = some l)
    (hh : s.peek (stackAddr (s.cpu.regs.s + 3)) = some h) :
    ∃ t, s.returnFromInterrupt = .ok t ∧
      t.cpu.regs = { s.cpu.regs with s := s.cpu.regs.s + 3, pc := joinBytes h l, p := Flags.ofByte v } ∧
      t.cpu.t = 1 ∧ t.cpu.deferred = .none ∧ Quiet 5 s t ∧ Untouched s t := by
  set s0 := s.withCpu { s.cpu with t := 2 } with hs0
  obtain ⟨t1, v1, n1, p1, q1, r1, k1, c1, -⟩ := State.runRows_read_of (s := s0) (r := rowDummy)
    (c := { s.cpu with t := 3, sync := false, ab := s.cpu.regs.pc, rw := .read })
    [rowPullDummy, rowPullDummy, rowRtiSetP, rowRtiJump] hs rfl rfl hr (by show 3 ≠ 1; omega)
  have k1' : Quiet 1 s t1 := k1.of_withCpu
  obtain ⟨t2, v2, n2, p2, q2, r2, k2, c2, -⟩ := State.runRows_read_of (s := t1) (r := rowPullDummy)
    (c := { t1.cpu with t := 4, sync := false, ab := stackAddr s.cpu.regs.s, rw := .read,
                        regs := { s.cpu.regs with s := s.cpu.regs.s + 1 } })
    [rowPullDummy, rowRtiSetP, rowRtiJump] (k1'.busReady hs)
    (by simp only [drives, rowPullDummy, c1, Cpu.rdStackInc, Cpu.rd, Cpu.setS, Cpu.next])
    rfl (t1.readable_stack _) (by show 4 ≠ 1; omega)
  have k2' := k1'.trans k2
  obtain ⟨t3, v3, n3, p3, q3, r3, k3, c3, w3⟩ := State.runRows_read_of (s := t2) (r := rowPullDummy)
    (c := { t2.cpu with t := 5, sync := false, ab := stackAddr (s.cpu.regs.s + 1), rw := .read,
                        regs := { s.cpu.regs with s := s.cpu.regs.s + 1 + 1 } })
    [rowRtiSetP, rowRtiJump] (k2'.busReady hs)
    (by simp only [drives, rowPullDummy, c2, c1, Cpu.rdStackInc, Cpu.rd, Cpu.setS, Cpu.next])
    rfl (t2.readable_stack _) (by show 5 ≠ 1; omega)
  have k3' := k2'.trans k3
  have e3 : v3 = v := w3 v (by rw [k2'.peek]; exact hv)
  have s2 : s.cpu.regs.s + 1 + 1 = s.cpu.regs.s + 2 := by bv_omega
  have s3 : s.cpu.regs.s + 1 + 1 + 1 = s.cpu.regs.s + 3 := by bv_omega
  obtain ⟨t4, v4, n4, p4, q4, r4, k4, c4, w4⟩ := State.runRows_read_of (s := t3) (r := rowRtiSetP)
    (c := { t3.cpu with t := 6, sync := false, ab := stackAddr (s.cpu.regs.s + 1 + 1), rw := .read,
                        regs := { s.cpu.regs with s := s.cpu.regs.s + 1 + 1 + 1, p := Flags.ofByte v } })
    [rowRtiJump] (k3'.busReady hs)
    (by simp only [drives, rowRtiSetP, c3, c2, c1, e3, Cpu.rdStackInc, Cpu.rd, Cpu.setS, Cpu.setP, Cpu.next])
    rfl (t3.readable_stack _) (by show 6 ≠ 1; omega)
  have k4' := k3'.trans k4
  have e4 : v4 = l := w4 l (by rw [k3'.peek, s2]; exact hl)
  obtain ⟨t5, v5, n5, p5, q5, r5, k5, c5, w5⟩ := State.runRows_read_last_of (s := t4) (r := rowRtiJump)
    (c := { t4.cpu with t := 1, sync := false, lo := l, ab := stackAddr (s.cpu.regs.s + 1 + 1 + 1), rw := .read, deferred := .jump l })
    [] (k4'.busReady hs)
    (by simp only [drives, rowRtiJump, c4, e4, Cpu.rdStack, Cpu.rd, Cpu.last])
    rfl (t4.readable_stack _) rfl
  have k5' := k4'.trans k5
  have e5 : v5 = h := w5 h (by rw [k4'.peek, s3]; exact hh)
  have hrun : s.returnFromInterrupt = .ok t5.commit := by
    show s0.runRows rtiRows = _
    rw [rtiRows, r1, r2, r3, r4, r5]
  have g1 : t1.cpu.pendingReset = s.cpu.pendingReset ∧ t1.cpu.resetLine = s.cpu.resetLine := by rw [c1]; exact ⟨rfl, rfl⟩
  have g2 : t2.cpu.pendingReset = s.cpu.pendingReset ∧ t2.cpu.resetLine = s.cpu.resetLine := by rw [c2]; exact g1
  have g3 : t3.cpu.pendingReset = s.cpu.pendingReset ∧ t3.cpu.resetLine = s.cpu.resetLine := by rw [c3]; exact g2
  have g4 : t4.cpu.pendingReset = s.cpu.pendingReset ∧ t4.cpu.resetLine = s.cpu.resetLine := by rw [c4]; exact g3
  have g5 : t5.cpu.pendingReset = s.cpu.pendingReset ∧ t5.cpu.resetLine = s.cpu.resetLine := by rw [c5]; exact g4
  refine ⟨t5.commit, hrun, ?_, ?_, ?_, ?_, k5'.untouched g5.1 g5.2⟩
  · show t5.cpu.runDeferred.regs = _
    have e1 : t5.cpu.deferred = .jump l := by rw [c5]
    have e2 : t5.cpu.db = h := by rw [c5]; exact e5
    have e3 : t5.cpu.regs = t4.cpu.regs := by rw [c5]
    rw [Cpu.runDeferred_jump e1, e2, e3, c4, s3]
  · show t5.cpu.runDeferred.t = 1
    rw [t5.cpu.runDeferred_frame.2.1, c5]
  · exact t5.cpu.runDeferred_frame.1
  · exact ⟨k5'.ram, k5'.prgRam, k5'.vram, k5'.cart, k5'.fault, k5'.dma, k5'.oam, k5'.written, k5'.palette, k5'.cyc, k5'.safe⟩

end Sys2Proof.Machine
end

