-- ==== Sys2Proof/Laws/Fetch.lean ====
section
/-! SUPPORT. The T1 tick and the operand fetch (rules R184, R185, R190). -/

namespace Sys2Proof.Machine

/-- The T1 tick (rule R184). -/
theorem fetchTick_next {s : State} (hs : s.BusReady) (hd : s.cpu.deferred = .none) (hr : s.readable s.cpu.regs.pc = true) :
    ∃ u v n p q, s.fetchTick = .ok u ∧ Quiet 1 s u ∧
      u.cpu = { ({ s.cpu with sync := false } : Cpu).poll.fetchOpcode with db := v, pendingNmi := n, nmiPrev := p, irqLine := q } ∧
      ∀ w, s.peek s.cpu.regs.pc = some w → v = w := by
  have h1 : ({ s.cpu with sync := false } : Cpu).stepT1 = ({ s.cpu with sync := false } : Cpu).poll.fetchOpcode := by
    unfold Cpu.stepT1
    rw [Cpu.runDeferred_none (by exact hd)]
  have hpoll : ∀ c : Cpu, c.poll.fetchOpcode.rw = .read ∧ c.poll.fetchOpcode.ab = c.regs.pc := by
    intro c
    have : c.poll.regs = c.regs := by unfold Cpu.poll; split <;> rfl
    unfold Cpu.fetchOpcode
    by_cases hk : c.poll.intKind = .none
    · simp only [hk, if_true]; exact ⟨rfl, by rw [← this]; rfl⟩
    · simp only [hk, if_false]; exact ⟨rfl, by rw [← this]; rfl⟩
  have hp := hpoll { s.cpu with sync := false }
  obtain ⟨t, h, k⟩ := State.busCycle_read (s := s.withCpu ({ s.cpu with sync := false } : Cpu).poll.fetchOpcode) hs.2 hp.1
    (by
      show s.readable (({ s.cpu with sync := false } : Cpu).poll.fetchOpcode).ab = true
      rw [hp.2]; exact hr)
  obtain ⟨v, n, p, q, hc⟩ := k.cpu
  refine ⟨t, v, n, p, q, ?_, k.quiet, hc, ?_⟩
  · unfold State.fetchTick
    rw [State.finishDma_idle hs.1, andThen_ok, h1]; exact h
  · intro w hw
    have := k.value w (by
      show s.peek (({ s.cpu with sync := false } : Cpu).poll.fetchOpcode).ab = _
      rw [hp.2]; exact hw)
    rw [hc] at this; exact this

/-- A step from the boundary is an instruction step (rule R184). -/
theorem step_boundary {s : State} (h : s.AtBoundary) : step s = s.instrStep := by
  obtain ⟨h1, h2, h3, h4, h5⟩ := h
  unfold step
  rw [h4]
  simp [h1, h3]

/-- The state that holds the opcode just fetched (rule R185). -/
def State.latchOpcode (s : State) : State := s.withCpu { s.cpu with ir := s.cpu.db }

/-- No operand byte. -/
theorem State.fetchInstr_zero {s : State} {i : Instr} (h : opcodeRow s.cpu.db 0 0 = some i) (hc : fetchCount i = 0) :
    s.fetchInstr = .ok (i, s.latchOpcode) := by
  unfold State.fetchInstr
  simp only [h, hc]; rfl

/-- An opcode byte outside the table. -/
theorem State.fetchInstr_illegal {s : State} (h : opcodeRow s.cpu.db 0 0 = none) :
    s.fetchInstr = .error (.illegalOpcode s.cpu.db (s.cpu.regs.pc - 1)) := by
  unfold State.fetchInstr
  simp only [h]; rfl

/-- One operand byte. -/
theorem State.fetchInstr_one {s : State} {i : Instr} (h : opcodeRow s.cpu.db 0 0 = some i) (hc : fetchCount i = 1) :
    s.fetchInstr = match s.latchOpcode.cycle rowFetch1 with
      | .error f => .error f
      | .ok t => .ok ((opcodeRow s.cpu.db t.cpu.db ((t.peek t.cpu.regs.pc).getD 0)).getD i, t) := by
  unfold State.fetchInstr
  simp only [h, hc]; rfl

/-- Two operand bytes. -/
theorem State.fetchInstr_two {s : State} {i : Instr} (h : opcodeRow s.cpu.db 0 0 = some i) (hc : fetchCount i = 2) :
    s.fetchInstr = match s.latchOpcode.cycle rowFetch1 with
      | .error f => .error f
      | .ok t => match t.cycle rowFetch2 with
        | .error f => .error f
        | .ok u => .ok ((opcodeRow s.cpu.db t.cpu.db u.cpu.db).getD i, u) := by
  unfold State.fetchInstr
  simp only [h, hc]; rfl

theorem fetchCount_le (i : Instr) : fetchCount i = 0 ∨ fetchCount i = 1 ∨ fetchCount i = 2 := by
  cases i <;> simp [fetchCount, Instr.operandBytes]

end Sys2Proof.Machine
end

