-- ==== Sys2Proof/Laws/Memories.lean ====
section
/-! SUPPORT. Every write of the two buses, and the program loader, keep the canonical form of every memory (rule R33). -/

namespace Sys2Proof.Machine

theorem cpuTarget_ram_lt {a : Word} {k : Nat} (h : cpuTarget a = .ram k) : k < 2048 := by
  have ne : ∀ (c : Prop) [Decidable c] (x y : Target), x ≠ .ram k → y ≠ .ram k → (if c then x else y) ≠ .ram k := by
    intro c _ x y hx hy
    by_cases hc : c
    · rw [if_pos hc]; exact hx
    · rw [if_neg hc]; exact hy
  unfold cpuTarget at h
  by_cases h1 : a.toNat < 0x2000
  · rw [if_pos h1] at h
    injection h with h; omega
  · rw [if_neg h1] at h
    refine absurd h ?_
    iterate 9 refine ne _ _ _ (fun h => by cases h) ?_
    exact fun h => by cases h

theorem vramIndex_lt (m : Mirroring) (p : BitVec 14) : vramIndex m p < 2048 := by
  cases m <;> exact Nat.mod_lt _ (by decide)

/-- A CPU-bus write (rules R85 to R103). -/
theorem State.busWrite_memoriesOk {s t : State} {a : Word} {v : Byte} (h : MemoriesOk s) (hw : s.busWrite a v = .ok t) :
    MemoriesOk t := by
  unfold State.busWrite at hw
  split at hw
  case h_1 k hk =>
    cases hw
    exact { h with ram := Memory.wfSize_write h.ram (cpuTarget_ram_lt hk) v }
  case h_10 k hk =>
    split at hw
    · cases hw
    · rename_i hl
      cases hw
      exact { h with prgRam := Memory.wfSize_write h.prgRam (Nat.mod_lt _ (Nat.pos_of_ne_zero hl)) v }
  all_goals first
    | (cases hw; done)
    | (cases hw; exact { h with })

/-- A PPU-bus write (rules R105, R110 to R112). -/
theorem State.ppuBusWrite_memoriesOk {s t : State} {p : BitVec 14} {d : Byte} (h : MemoriesOk s)
    (hw : s.ppuBusWrite p d = .ok t) : MemoriesOk t := by
  unfold State.ppuBusWrite at hw
  split at hw
  · cases hw
  · cases hw
    exact { h with vram := Memory.wfSize_write h.vram (vramIndex_lt _ _) d }

/-- A PPUDATA write that met a rendering fetch (rule R584; log 8). -/
theorem State.lostPpuWrite_memoriesOk {s : State} (h : MemoriesOk s) (p : BitVec 14) : MemoriesOk (s.lostPpuWrite p) := by
  unfold State.lostPpuWrite
  split
  · exact h
  · exact { h with vram := Memory.wfSize_write h.vram (vramIndex_lt _ _) _ }

/-- The program loader (log 3), where the cartridge has PRG-ROM. -/
theorem State.loadByte_memoriesOk {s : State} (h : MemoriesOk s) (hr : s.cart.prgRomLen ≠ 0) {a : Word}
    (ha : (s.peek a).isSome = true) (v : Byte) : MemoriesOk (s.loadByte a v) := by
  unfold State.peek at ha
  unfold State.loadByte
  cases hT : cpuTarget a with
  | ram k => exact { h with ram := Memory.wfSize_write h.ram (cpuTarget_ram_lt hT) v }
  | prgRam k =>
    rw [hT] at ha
    by_cases hl : s.cart.prgRamLen = 0
    · simp [hl] at ha
    · exact { h with prgRam := Memory.wfSize_write h.prgRam (Nat.mod_lt _ (Nat.pos_of_ne_zero hl)) v }
  | prgRom k => exact { h with prgRom := Memory.wfSize_write h.prgRom (Nat.mod_lt _ (Nat.pos_of_ne_zero hr)) v }
  | _ => exact h

end Sys2Proof.Machine
end

