-- ==== Sys2Proof/Laws/Shapes.lean ====
section
/-! SUPPORT. What each shape of the instruction set can do: one lemma per shape, from the state its meaning starts in
(rules R230, R250, R260, R267, R270). -/

namespace Sys2Proof.Machine

/-! ## Read-and-use -/

/-- The read-and-use shape at a readable address (rule R230). -/
theorem readUse_next {op : ReadOp} {o : Operand} {s : State} {a : Word} (hs : s.CanRun) (ha : o.address s = some a)
    (hr : s.readable a = true) (hd : ∀ d, o.dummyRead true s = some d → s.readable d = true) :
    ∃ t, readUse op o s = .next t ∧ t.cpu.regs = op.run t.cpu.db s.cpu.regs ∧ (∀ v, s.peek a = some v → t.cpu.db = v) ∧
      Quiet (o.cycles true s) s t ∧ Untouched s t ∧ t.cpu.t = 1 ∧ t.cpu.deferred = .none := by
  obtain ⟨t, c, rest, h⟩ := o.walk (elide := true) (access := accessUse op) [] hs.1 ha hd
  obtain ⟨n, hq, hn⟩ := h.quiet
  have hrow : drives (fun _ => accessUse op a c) t = { (c.rd a).last with deferred := .op op } := rfl
  obtain ⟨u, v, n', p, q, hrun, hq', hc, hv⟩ := State.runRows_read_last (s := t) (r := fun _ => accessUse op a c) rest
    (hq.busReady hs.1) (by rw [hrow]; rfl) (by rw [hrow]; exact (hq.readable a).trans hr) (by rw [hrow]; rfl)
  rw [hrow] at hc hv
  have hrun' : readUse op o s = .next u.commit := by
    have e : readUse op o s = ((o.start s).runRows (o.rows true (accessUse op))).result := by
      cases o <;> first | rfl | cases ha
    have hw := h.runs
    rw [List.append_nil] at hw
    rw [e, hw, hrun]; rfl
  refine ⟨u.commit, hrun', ?_, ?_, ?_, (hq.trans hq').untouched ?_ ?_, ?_, ?_⟩
  · show u.cpu.runDeferred.regs = op.run u.cpu.runDeferred.db _
    have h1 : u.cpu.deferred = .op op := by rw [hc]
    have h2 : u.cpu.regs = s.cpu.regs := by rw [hc]; exact h.same.regs
    unfold Cpu.runDeferred
    rw [h1, h2]
  · intro w hw
    show u.cpu.runDeferred.db = w
    rw [u.cpu.runDeferred_frame.2.2.1, hc]
    exact hv w ((hq.peek a).trans hw)
  · have k := hq.trans hq'
    rw [hn] at k
    exact ⟨k.ram, k.prgRam, k.vram, k.cart, k.fault, k.dma, k.oam, k.written, k.palette, k.cyc, k.safe⟩
  · rw [hc]; exact h.same.pendingReset
  · rw [hc]; exact h.same.resetLine
  · show u.cpu.runDeferred.t = 1
    rw [u.cpu.runDeferred_frame.2.1, hc]; rfl
  · exact u.cpu.runDeferred_frame.1

/-- The read-and-use shape on an immediate operand (rules R190, R230). -/
theorem readUse_imm (op : ReadOp) (b : Byte) (s : State) :
    ∃ t, readUse op (.imm b) s = .next t ∧ t.cpu.regs = op.run b s.cpu.regs ∧ (∀ a, t.peek a = s.peek a) ∧
      Untouched s t ∧ t.cpu.t = 1 ∧ t.cpu.deferred = .none ∧ t.cyc = s.cyc :=
  ⟨_, rfl, rfl, fun _ => rfl, ⟨rfl, rfl, rfl, rfl, rfl, rfl, rfl, rfl, rfl⟩, rfl, rfl, rfl⟩

/-- The read-and-use shape on a byte of memory or an immediate byte. -/
theorem readUse_operates {op : ReadOp} {o : Operand} {s : State} {m : Byte} (hs : s.CanRun) (h : s.Operates o m) :
    ∃ t, readUse op o s = .next t ∧ t.cpu.regs = op.run m s.cpu.regs := by
  cases o with
  | imm b =>
    have hb : m = b := h
    obtain ⟨t, h1, h2, -⟩ := readUse_imm op b s
    exact ⟨t, h1, hb ▸ h2⟩
  | _ =>
    obtain ⟨⟨a, ha, hm⟩, hd⟩ := h
    obtain ⟨t, h1, h2, h3, -⟩ := readUse_next (op := op) hs ha (State.readable_of_peek hm) hd
    exact ⟨t, h1, by rw [h2, h3 m hm]⟩

/-! ## Store, read-modify-write, single cycle -/

/-- A write changes the bytes of one cell only. -/
theorem Wrote.sameBytes {s t : State} {a : Word} {v : Byte} (h : Wrote s t a v) : SameBytesExcept [s.cellOf a] s t := by
  intro b hb
  exact h.stored.peek_other (fun e => hb (by rw [e]; exact List.mem_singleton.2 rfl))

/-- The store shape (rule R250). -/
theorem store_next {r : StoreReg} {o : Operand} {s : State} {a : Word} (hs : s.CanRun)
    (ha : o.address s = some a) (hw : s.writable a = true) (hd : ∀ d, o.dummyRead false s = some d → s.readable d = true) :
    ∃ t, store r o s = .next t ∧ t.cpu.regs = s.cpu.regs ∧ Stored s t a (r.value s.cpu.regs) ∧
      ((∀ k, cpuTarget a ≠ .ppu k) → Untouched s t) ∧ t.cpu.t = 1 ∧ t.cpu.deferred = .none ∧ t.PpuSafe ∧
      t.cyc = s.cyc + o.cycles false s := by
  obtain ⟨t, c, rest, h⟩ := o.walk (elide := false) (access := accessStore r) [] hs.1 ha hd
  obtain ⟨n, hq, hn⟩ := h.quiet
  have hrow : drives (fun _ => accessStore r a c) t = (c.wr a (r.value c.regs)).last := rfl
  obtain ⟨u, n', p, q, hrun, hq', hc⟩ := State.runRows_write_last (s := t) (r := fun _ => accessStore r a c) rest
    (hq.busReady hs.1) (by rw [hrow]; rfl) (by rw [hrow]; exact (hq.writable a).trans hw) (by rw [hrow]; rfl)
  rw [hrow] at hc hq'
  have hv : r.value c.regs = r.value s.cpu.regs := by rw [h.same.regs]
  have hq1 : Wrote t u a (r.value s.cpu.regs) := hv ▸ hq'
  have hdef : u.cpu.deferred = .none := by rw [hc]; exact h.same.deferred.trans hs.2
  have hcm : u.commit = u := by
    show ({ u with cpu := u.cpu.runDeferred } : State) = u
    rw [Cpu.runDeferred_none hdef]
  have hrun' : store r o s = .next u := by
    have hw := h.runs
    rw [List.append_nil] at hw
    show ((o.start s).runRows (o.rows false (accessStore r))).result = _
    rw [hw, hrun, hcm]; rfl
  refine ⟨u, hrun', ?_, ?_, ?_, ?_, hdef, hq1.safe, ?_⟩
  · rw [hc]; exact h.same.regs
  · have k := hq1.stored
    exact ⟨by rw [k.ram, hq.ram], by rw [k.prgRam, hq.prgRam, hq.cart], k.cart.trans hq.cart⟩
  · intro hp
    exact ⟨hq1.vram.trans hq.vram, (hq1.oam hp).trans hq.oam, hq1.palette.trans hq.palette,
      (hq1.written hp).trans hq.written,
      hq1.stored.cart.trans hq.cart, hq1.fault.trans hq.fault, hq1.dma.trans hq.dma,
      by rw [hc]; exact h.same.pendingReset, by rw [hc]; exact h.same.resetLine⟩
  · rw [hc]; rfl
  · rw [hq1.cyc, hq.cyc, ← hn]; omega

/-- The read-modify-write shape on memory (rule R260). -/
theorem rmwMemory_next {op : RmwOp} {o : Operand} {s : State} {a : Word} (hs : s.CanRun) (hm : MemoriesOk s)
    (ha : o.address s = some a) (hr : s.readable a = true) (hw : s.writable a = true)
    (hd : ∀ d, o.dummyRead false s = some d → s.readable d = true) :
    ∃ t, rmwMemory op o s = .next t ∧ t.cpu.regs = { s.cpu.regs with p := (op.run t.cpu.m s.cpu.regs.p).2 } ∧
      t.cpu.db = (op.run t.cpu.m s.cpu.regs.p).1 ∧
      (∀ v, s.peek a = some v → t.cpu.m = v ∧
        ∀ b, s.cellOf b = s.cellOf a → t.peek b = some (op.run v s.cpu.regs.p).1) ∧
      SameBytesExcept [s.cellOf a] s t ∧
      ((∀ k, cpuTarget a ≠ .ppu k) → Untouched s t) ∧ t.cpu.t = 1 ∧ t.cpu.deferred = .none ∧ t.PpuSafe ∧
      t.cyc = s.cyc + o.cycles false s + 2 := by
  obtain ⟨t, c, rest, h⟩ := o.walk (elide := false) (access := accessModify) [rowWriteBack, rowModify op] hs.1 ha hd
  obtain ⟨n, hq, hn⟩ := h.quiet
  have he : rest = [rowWriteBack, rowModify op] := h.rest rfl
  subst he
  have hrow : drives (fun _ => accessModify a c) t = (c.rd a).next := rfl
  obtain ⟨u, v, n1, p1, q1, run1, k1, c1, w1⟩ := State.runRows_read_of (s := t) (r := fun _ => accessModify a c)
    [rowWriteBack, rowModify op] (hq.busReady hs.1) hrow rfl ((hq.readable a).trans hr) (by show c.t + 1 ≠ 1; have := h.late; omega)
  have b1 := k1.busReady (hq.busReady hs.1)
  have d2 : drives rowWriteBack u = ({ u.cpu with sync := false, m := v, ab := a, rw := .write, db := v, t := c.t + 2 } : Cpu) := by
    simp only [drives, rowWriteBack, c1, Cpu.rd, Cpu.wr, Cpu.next, h.ea]
  obtain ⟨x, n2, p2, q2, run2, k2, c2⟩ := State.runRows_write (s := u) (r := rowWriteBack) [rowModify op] b1
    (by rw [d2]) (by rw [d2]; show u.writable a = true; rw [k1.writable, hq.writable]; exact hw)
    (by rw [d2]; show c.t + 2 ≠ 1; omega)
  rw [d2] at k2 c2
  have b2 := k2.busReady b1
  have hregs : x.cpu.regs = s.cpu.regs := by rw [c2, c1]; exact h.same.regs
  have hea : x.cpu.ea = a := by rw [c2, c1]; exact h.ea
  have hmm : x.cpu.m = v := by rw [c2]
  have d3 : drives (rowModify op) x = ({ x.cpu with
      sync := false, regs := { s.cpu.regs with p := (op.run v s.cpu.regs.p).2 }, ab := a, rw := .write,
      db := (op.run v s.cpu.regs.p).1, t := 1 } : Cpu) := by
    simp only [drives, rowModify, Cpu.setP, Cpu.wr, Cpu.last, hregs, hea, hmm]
  obtain ⟨y, n3, p3, q3, run3, k3, c3⟩ := State.runRows_write_last (s := x) (r := rowModify op) [] b2
    (by rw [d3]) (by
      rw [d3]; show x.writable a = true
      rw [State.writable_congr k2.stored.cart, k1.writable, hq.writable]; exact hw) (by rw [d3])
  rw [d3] at k3 c3
  have hdef : y.cpu.deferred = .none := by rw [c3, c2, c1]; exact h.same.deferred.trans hs.2
  have hcm : y.commit = y := by
    show ({ y with cpu := y.cpu.runDeferred } : State) = y
    rw [Cpu.runDeferred_none hdef]
  have hfull := hq.trans k1
  have hmem : u.ram.wf = true ∧ u.prgRam.wf = true := by
    rw [hfull.ram, hfull.prgRam]; exact ⟨Memory.wfSize_wf hm.ram, Memory.wfSize_wf hm.prgRam⟩
  have hmem2 := k2.stored.wf hmem.1 hmem.2
  have cellx : ∀ b, x.cellOf b = s.cellOf b := fun b =>
    (State.cellOf_congr k2.stored.cart b).trans (State.cellOf_congr hfull.cart b)
  have cellu : ∀ b, u.cellOf b = s.cellOf b := fun b => State.cellOf_congr hfull.cart b
  refine ⟨y, ?_, ?_, ?_, ?_, ?_, ?_, ?_, hdef, k3.safe, ?_⟩
  · show ((o.start s).runRows (o.rows false accessModify ++ [rowWriteBack, rowModify op])).result = _
    rw [h.runs, run1, run2, run3, hcm]; rfl
  · rw [c3]; show _ = { s.cpu.regs with p := (op.run x.cpu.m s.cpu.regs.p).2 }; rw [hmm]
  · rw [c3]; show _ = (op.run x.cpu.m s.cpu.regs.p).1; rw [hmm]
  · intro w hw'
    have hv : v = w := w1 w ((hq.peek a).trans hw')
    refine ⟨by rw [c3]; show x.cpu.m = w; rw [hmm, hv], ?_⟩
    intro b hb
    have := k3.stored.peek_same (b := b) hmem2.1 hmem2.2 (by
      rw [State.writable_congr k2.stored.cart, k1.writable, hq.writable]; exact hw) (by
      rw [k2.stored.peek_same (b := a) hmem.1 hmem.2 (by rw [k1.writable, hq.writable]; exact hw)
        (by rw [hfull.peek a, hw']; rfl) rfl]; rfl) (by rw [cellx, cellx]; exact hb)
    rw [this, hv]
  · intro b hb
    have hne : s.cellOf b ≠ s.cellOf a := fun e => hb (by rw [e]; exact List.mem_singleton.2 rfl)
    rw [k3.stored.peek_other (by rw [cellx, cellx]; exact hne), k2.stored.peek_other (by rw [cellu, cellu]; exact hne),
      hfull.peek]
  · intro hp
    refine ⟨k3.vram.trans (k2.vram.trans hfull.vram), (k3.oam hp).trans ((k2.oam hp).trans hfull.oam),
      k3.palette.trans (k2.palette.trans hfull.palette),
      (k3.written hp).trans ((k2.written hp).trans hfull.written), k3.stored.cart.trans (k2.stored.cart.trans hfull.cart),
      k3.fault.trans (k2.fault.trans hfull.fault), k3.dma.trans (k2.dma.trans hfull.dma), ?_, ?_⟩
    · rw [c3, c2, c1]; exact h.same.pendingReset
    · rw [c3, c2, c1]; exact h.same.resetLine
  · rw [c3]
  · rw [k3.cyc, k2.cyc, hfull.cyc, ← hn]

/-- A shape of one row that reads (rules R267, R270). -/
theorem runFrom_one {s : State} {r : Row} {rows : List Row} (hs : s.CanRun)
    (hr : (r { s.cpu with t := 2, sync := false }).rw = .read)
    (ha : s.readable (r { s.cpu with t := 2, sync := false }).ab = true)
    (ht : (r { s.cpu with t := 2, sync := false }).t = 1)
    (hd : (r { s.cpu with t := 2, sync := false }).deferred = .none)
    (hp : (r { s.cpu with t := 2, sync := false }).pendingReset = s.cpu.pendingReset)
    (hl : (r { s.cpu with t := 2, sync := false }).resetLine = s.cpu.resetLine) :
    ∃ t, s.runFrom s.cpu 2 (r :: rows) = .next t ∧ t.cpu.regs = (r { s.cpu with t := 2, sync := false }).regs ∧
      Quiet 1 s t ∧ Untouched s t ∧ t.cpu.t = 1 ∧ t.cpu.deferred = .none := by
  obtain ⟨u, v, n, p, q, hrun, hq, hc, -⟩ := State.runRows_read_last (s := s.withCpu { s.cpu with t := 2 }) (r := r) rows
    hs.1 hr ha ht
  have hc' : u.cpu = { r { s.cpu with t := 2, sync := false } with db := v, pendingNmi := n, nmiPrev := p, irqLine := q } := hc
  have hdef : u.cpu.deferred = .none := by rw [hc']; exact hd
  have hcm : u.commit = u := by
    show ({ u with cpu := u.cpu.runDeferred } : State) = u
    rw [Cpu.runDeferred_none hdef]
  have hq' : Quiet 1 s u := ⟨hq.ram, hq.prgRam, hq.vram, hq.cart, hq.fault, hq.dma, hq.oam, hq.written, hq.palette, hq.cyc, hq.safe⟩
  refine ⟨u, ?_, ?_, hq', ?_, ?_, hdef⟩
  · show ((s.withCpu { s.cpu with t := 2 }).runRows (r :: rows)).result = _
    rw [hrun, hcm]; rfl
  · rw [hc']
  · have := hq'.untouched (by rw [hc']; exact hp) (by rw [hc']; exact hl)
    rwa [hcm] at this
  · rw [hc']; exact ht

/-- The accumulator form (rule R267). -/
theorem rmwAccumulator_next (op : RmwOp) {s : State} (hs : s.CanRun) (hr : s.readable s.cpu.regs.pc = true) :
    ∃ t, rmwAccumulator op s = .next t ∧ t.cpu.regs = op.onA s.cpu.regs ∧ Quiet 1 s t ∧ Untouched s t ∧ t.cpu.t = 1 ∧
      t.cpu.deferred = .none :=
  runFrom_one (r := rowAccumulator op) hs rfl hr rfl hs.2 rfl rfl

theorem SingleOp.run_pc (op : SingleOp) (r : Regs) : (op.run r).pc = r.pc := by cases op <;> rfl

/-- The single-byte shape (rule R270). -/
theorem single_next (op : SingleOp) {s : State} (hs : s.CanRun) (hr : s.readable s.cpu.regs.pc = true) :
    ∃ t, single op s = .next t ∧ t.cpu.regs = op.run s.cpu.regs ∧ Quiet 1 s t ∧ Untouched s t ∧ t.cpu.t = 1 ∧
      t.cpu.deferred = .none :=
  runFrom_one (r := rowSingle op) hs rfl (by
    show s.readable (op.run s.cpu.regs).pc = true
    rw [op.run_pc]; exact hr) rfl hs.2 rfl rfl

/-! ## Absolute stores to the PPU's registers -/

/-- The bus driven by the last cycle of an absolute store. -/
def Cpu.storing (c : Cpu) (a : Word) (v : Byte) : Cpu :=
  { c with lo := loByte a, hi := hiByte a, sync := false, ea := a, t := 1, rw := .write, ab := a, db := v }

theorem storeAbs_drives (r : StoreReg) (s : State) (a : Word) :
    drives (rowAbs (accessStore r)) ((Operand.abs a).start s) = s.cpu.storing a (r.value s.cpu.regs) := by
  simp [drives, rowAbs, Cpu.accessAt, Operand.start, State.withCpu, Operand.hold, Cpu.holdWord, Operand.firstCycle,
    Operand.bytes, accessStore, Cpu.wr, Cpu.last, Cpu.storing]

/-- A store in the absolute form is one write cycle: it completes where the write and the dots after it do. -/
theorem storeAbs_next {r : StoreReg} {s s1 s2 : State} {a : Word} (hs : s.CanRun)
    (hw : (s.withCpu (s.cpu.storing a (r.value s.cpu.regs))).busWrite a (r.value s.cpu.regs) = .ok s1)
    (hq : s1.ppuSteps = .ok s2) (hc : s2.cpu = s.cpu.storing a (r.value s.cpu.regs)) :
    store r (.abs a) s = .next (State.latchNmi s2).endTick := by
  have hcyc : ((Operand.abs a).start s).cycle (rowAbs (accessStore r)) = .ok (State.latchNmi s2).endTick := by
    rw [State.cycle_idle (s := (Operand.abs a).start s) hs.1.1, storeAbs_drives]
    exact State.busCycle_write_of rfl hw hq (by rw [hc]; rfl)
  set u := (State.latchNmi s2).endTick with hu
  have hut : u.cpu.t = 1 := by rw [hu]; show s2.cpu.t = 1; rw [hc]; rfl
  have hudef : u.cpu.deferred = .none := by rw [hu]; show s2.cpu.deferred = _; rw [hc]; exact hs.2
  have hcm : u.commit = u := by
    show ({ u with cpu := u.cpu.runDeferred } : State) = u
    rw [Cpu.runDeferred_none hudef]
  show (((Operand.abs a).start s).runRows [rowAbs (accessStore r)]).result = _
  rw [State.runRows_last hcyc hut, hcm]; rfl

/-- A store in the absolute form stops where the dots of its write cycle do. -/
theorem storeAbs_fault {r : StoreReg} {s s1 : State} {a : Word} {f : Fault} (hs : s.CanRun)
    (hw : (s.withCpu (s.cpu.storing a (r.value s.cpu.regs))).busWrite a (r.value s.cpu.regs) = .ok s1)
    (hq : s1.ppuSteps = .error f) : store r (.abs a) s = .fault f := by
  have hcyc : ((Operand.abs a).start s).cycle (rowAbs (accessStore r)) = .error f := by
    rw [State.cycle_idle (s := (Operand.abs a).start s) hs.1.1, storeAbs_drives]
    unfold State.busCycle
    show andThen (State.busWrite (s.withCpu (s.cpu.storing a (r.value s.cpu.regs))) a (r.value s.cpu.regs)) _ = _
    rw [hw, andThen_ok, hq]; rfl
  show (((Operand.abs a).start s).runRows [rowAbs (accessStore r)]).result = _
  rw [State.runRows_error hcyc]; rfl

theorem busWrite_ppu (s : State) {a : Word} (v : Byte) {r : BitVec 3} (h : cpuTarget a = .ppu r) :
    s.busWrite a v = .ok { s with ppu := { s.ppu with cpuReg := r, cpuData := v, cpuRw := .write, access := true } } := by
  unfold State.busWrite; rw [h]

/-- The same, to a PPU register whose access asks for no VRAM write; with rendering off, `v` is what the access left. -/
theorem storeAbs_ppu {r : StoreReg} {s : State} {a : Word} {k : BitVec 3} (hs : s.CanRun) (ha : cpuTarget a = .ppu k)
    {p : Ppu} (hp : p = { s.ppu with cpuReg := k, cpuData := r.value s.cpu.regs, cpuRw := .write, access := true })
    (hw : p.cpuAccess.vramWr = false) (hn : p.cpuAccess.NoTallSprite) :
    ∃ t, store r (.abs a) s = .next t ∧ t.cpu.regs = s.cpu.regs ∧ (∀ b, t.peek b = s.peek b) ∧ p.cpuAccess.Held t.ppu ∧
      t.vram = s.vram ∧ (p.cpuAccess.renderingEnabled = false → t.ppu.v = p.cpuAccess.v) := by
  set s1 : State := { s.withCpu (s.cpu.storing a (r.value s.cpu.regs)) with ppu := p } with hs1
  obtain ⟨q, hq, hk, -⟩ := State.ppuSteps_ok (s := s1) hs.1.2.1 hw hn
  have hwr := busWrite_ppu (s.withCpu (s.cpu.storing a (r.value s.cpu.regs))) (r.value s.cpu.regs) ha
  have hn := storeAbs_next (s1 := s1) (s2 := { s1 with ppu := q }) hs (by rw [hs1, hp]; exact hwr) hq rfl
  exact ⟨_, hn, rfl, fun b => rfl, hk, rfl, fun hr => State.ppuSteps_off hq hr⟩

/-! ## Absolute reads of the devices -/

/-- The bus driven by the last cycle of a read-and-use instruction in the absolute form. -/
def Cpu.loading (c : Cpu) (a : Word) (op : ReadOp) : Cpu :=
  { c with lo := loByte a, hi := hiByte a, db := hiByte a, sync := false, ea := a, t := 1, rw := .read, ab := a,
           deferred := .op op }

/-- A read-and-use instruction in the absolute form is one read cycle: it completes where the drive, the dots and the read
do, and uses the byte read. -/
theorem readAbs_next {op : ReadOp} {s s1 s2 : State} {a : Word} {q : Ppu} {v : Byte} (hs : s.CanRun)
    (hd : (s.withCpu (s.cpu.loading a op)).driveBus = .ok s1) (hc : s1.cpu = s.cpu.loading a op)
    (hq : s1.ppuSteps = .ok { s1 with ppu := q })
    (hr : (State.latchNmi { s1 with ppu := q }).busRead a = .ok (v, s2))
    (hc2 : s2.cpu = (State.latchNmi { s1 with ppu := q }).cpu) :
    ∃ t, readUse op (.abs a) s = .next t ∧ t.cpu.regs = op.run v s.cpu.regs ∧ t.apu = s2.apu.step ∧ t.ctl = s2.ctl ∧
      t.ppu = s2.ppu ∧ t.cyc = s2.cyc + 1 ∧ t.vram = s2.vram := by
  have hrow : drives (rowAbs (accessUse op)) ((Operand.abs a).start s) = s.cpu.loading a op := by
    simp [drives, rowAbs, Cpu.accessAt, Operand.start, State.withCpu, Operand.hold, Cpu.holdWord, Operand.firstCycle,
      Operand.bytes, accessUse, Cpu.rd, Cpu.last, Cpu.loading]
  have hcyc : ((Operand.abs a).start s).cycle (rowAbs (accessUse op)) = .ok (s2.deliver .cpu v).endTick := by
    rw [State.cycle_idle (s := (Operand.abs a).start s) hs.1.1, hrow]
    unfold State.busCycle
    show andThen (s.withCpu (s.cpu.loading a op)).driveBus _ = _
    rw [hd, andThen_ok, hq, andThen_ok]
    have hrw : (State.latchNmi { s1 with ppu := q }).cpu.rw = .read := by show s1.cpu.rw = _; rw [hc]; rfl
    have hab : (State.latchNmi { s1 with ppu := q }).cpu.ab = a := by show s1.cpu.ab = _; rw [hc]; rfl
    unfold State.completeRead
    rw [hrw]
    dsimp only
    rw [hab, hr, andThen_ok]
  have hut : (s2.deliver .cpu v).endTick.cpu.t = 1 := by show s2.cpu.t = 1; rw [hc2]; show s1.cpu.t = 1; rw [hc]; rfl
  have hdef : (s2.deliver .cpu v).endTick.cpu.deferred = .op op := by
    show s2.cpu.deferred = _; rw [hc2]; show s1.cpu.deferred = _; rw [hc]; rfl
  have hregs : (s2.deliver .cpu v).endTick.cpu.regs = s.cpu.regs := by
    show s2.cpu.regs = _; rw [hc2]; show s1.cpu.regs = _; rw [hc]; rfl
  have hdb : (s2.deliver .cpu v).endTick.cpu.db = v := rfl
  refine ⟨(s2.deliver .cpu v).endTick.commit, ?_, ?_, rfl, rfl, rfl, rfl, rfl⟩
  · show (((Operand.abs a).start s).runRows [rowAbs (accessUse op)]).result = _
    rw [State.runRows_last hcyc hut]; rfl
  · rw [State.commit_cpu]
    unfold Cpu.runDeferred
    rw [hdef]
    show op.run _ _ = _
    rw [hdb, hregs]

/-- The same, from a PPU register: the byte its access left on the CPU data bus, no VRAM write; with rendering off, `v` is
what the access left. -/
theorem readAbs_ppu {op : ReadOp} {s : State} {a : Word} {k : BitVec 3} (hs : s.CanRun) (ha : cpuTarget a = .ppu k)
    {p : Ppu} (hp : p = { s.ppu with cpuReg := k, cpuRw := .read, access := true }) :
    ∃ t, readUse op (.abs a) s = .next t ∧ t.cpu.regs = op.run p.cpuAccess.cpuData s.cpu.regs ∧ p.cpuAccess.Held t.ppu ∧
      t.vram = s.vram ∧ (p.cpuAccess.renderingEnabled = false → t.ppu.v = p.cpuAccess.v) := by
  have hb : p.cpuAccess = { p.endStrobes with access := false }.registerAccess := Ppu.cpuAccess_busy (by rw [hp])
  obtain ⟨k1, k2, -, -, -, k6⟩ := Ppu.registerRead_keeps (p := { p.endStrobes with access := false }) (by rw [hp]; rfl)
  rw [← hb] at k1 k2 k6
  set s1 : State := { s.withCpu (s.cpu.loading a op) with ppu := p } with hs1
  obtain ⟨q, hq, hk, -⟩ := State.ppuSteps_ok (s := s1) hs.1.2.1 k6 (by
    show p.cpuAccess.NoTallSprite
    unfold Ppu.NoTallSprite Ppu.renderingEnabled
    rw [k1, k2, hp]; exact hs.1.2.2.2)
  have hd : (s.withCpu (s.cpu.loading a op)).driveBus = .ok s1 := by
    unfold State.driveBus
    show (match cpuTarget a with | .ppu r => _ | _ => _) = _
    rw [ha, hs1, hp]; rfl
  obtain ⟨t, h1, h2, -, -, h5, -, h6⟩ := readAbs_next (op := op) (v := q.cpuData) (s2 := State.latchNmi { s1 with ppu := q })
    hs hd rfl hq (by unfold State.busRead; rw [ha]; rfl) rfl
  have h5' : t.ppu = q := h5
  refine ⟨t, h1, by rw [h2]; exact congrArg (op.run · _) hk.cpuData, h5' ▸ hk, h6, fun hr => ?_⟩
  rw [h5']; exact State.ppuSteps_off hq hr

end Sys2Proof.Machine
end

