-- ==== Sys2Proof/Laws/State.lean ====
section
/-! SUPPORT. One lemma per field of each update of the CPU and of the state, true by definition, so that no proof unfolds
a record update. -/

namespace Sys2Proof.Machine

/-! ## Cpu.rd -/

@[simp] theorem Cpu.rd_regs (c : Cpu) (a : Word) : (c.rd a).regs = c.regs := rfl
@[simp] theorem Cpu.rd_ab (c : Cpu) (a : Word) : (c.rd a).ab = a := rfl
@[simp] theorem Cpu.rd_db (c : Cpu) (a : Word) : (c.rd a).db = c.db := rfl
@[simp] theorem Cpu.rd_rw (c : Cpu) (a : Word) : (c.rd a).rw = .read := rfl
@[simp] theorem Cpu.rd_sync (c : Cpu) (a : Word) : (c.rd a).sync = c.sync := rfl
@[simp] theorem Cpu.rd_ir (c : Cpu) (a : Word) : (c.rd a).ir = c.ir := rfl
@[simp] theorem Cpu.rd_pendingReset (c : Cpu) (a : Word) : (c.rd a).pendingReset = c.pendingReset := rfl
@[simp] theorem Cpu.rd_pendingNmi (c : Cpu) (a : Word) : (c.rd a).pendingNmi = c.pendingNmi := rfl
@[simp] theorem Cpu.rd_nmiPrev (c : Cpu) (a : Word) : (c.rd a).nmiPrev = c.nmiPrev := rfl
@[simp] theorem Cpu.rd_irqLine (c : Cpu) (a : Word) : (c.rd a).irqLine = c.irqLine := rfl
@[simp] theorem Cpu.rd_resetLine (c : Cpu) (a : Word) : (c.rd a).resetLine = c.resetLine := rfl
@[simp] theorem Cpu.rd_intKind (c : Cpu) (a : Word) : (c.rd a).intKind = c.intKind := rfl
@[simp] theorem Cpu.rd_t (c : Cpu) (a : Word) : (c.rd a).t = c.t := rfl
@[simp] theorem Cpu.rd_lo (c : Cpu) (a : Word) : (c.rd a).lo = c.lo := rfl
@[simp] theorem Cpu.rd_hi (c : Cpu) (a : Word) : (c.rd a).hi = c.hi := rfl
@[simp] theorem Cpu.rd_ptr (c : Cpu) (a : Word) : (c.rd a).ptr = c.ptr := rfl
@[simp] theorem Cpu.rd_ea (c : Cpu) (a : Word) : (c.rd a).ea = c.ea := rfl
@[simp] theorem Cpu.rd_m (c : Cpu) (a : Word) : (c.rd a).m = c.m := rfl
@[simp] theorem Cpu.rd_deferred (c : Cpu) (a : Word) : (c.rd a).deferred = c.deferred := rfl

/-! ## Cpu.wr -/

@[simp] theorem Cpu.wr_regs (c : Cpu) (a : Word) (v : Byte) : (c.wr a v).regs = c.regs := rfl
@[simp] theorem Cpu.wr_ab (c : Cpu) (a : Word) (v : Byte) : (c.wr a v).ab = a := rfl
@[simp] theorem Cpu.wr_db (c : Cpu) (a : Word) (v : Byte) : (c.wr a v).db = v := rfl
@[simp] theorem Cpu.wr_rw (c : Cpu) (a : Word) (v : Byte) : (c.wr a v).rw = .write := rfl
@[simp] theorem Cpu.wr_sync (c : Cpu) (a : Word) (v : Byte) : (c.wr a v).sync = c.sync := rfl
@[simp] theorem Cpu.wr_ir (c : Cpu) (a : Word) (v : Byte) : (c.wr a v).ir = c.ir := rfl
@[simp] theorem Cpu.wr_pendingReset (c : Cpu) (a : Word) (v : Byte) : (c.wr a v).pendingReset = c.pendingReset := rfl
@[simp] theorem Cpu.wr_pendingNmi (c : Cpu) (a : Word) (v : Byte) : (c.wr a v).pendingNmi = c.pendingNmi := rfl
@[simp] theorem Cpu.wr_nmiPrev (c : Cpu) (a : Word) (v : Byte) : (c.wr a v).nmiPrev = c.nmiPrev := rfl
@[simp] theorem Cpu.wr_irqLine (c : Cpu) (a : Word) (v : Byte) : (c.wr a v).irqLine = c.irqLine := rfl
@[simp] theorem Cpu.wr_resetLine (c : Cpu) (a : Word) (v : Byte) : (c.wr a v).resetLine = c.resetLine := rfl
@[simp] theorem Cpu.wr_intKind (c : Cpu) (a : Word) (v : Byte) : (c.wr a v).intKind = c.intKind := rfl
@[simp] theorem Cpu.wr_t (c : Cpu) (a : Word) (v : Byte) : (c.wr a v).t = c.t := rfl
@[simp] theorem Cpu.wr_lo (c : Cpu) (a : Word) (v : Byte) : (c.wr a v).lo = c.lo := rfl
@[simp] theorem Cpu.wr_hi (c : Cpu) (a : Word) (v : Byte) : (c.wr a v).hi = c.hi := rfl
@[simp] theorem Cpu.wr_ptr (c : Cpu) (a : Word) (v : Byte) : (c.wr a v).ptr = c.ptr := rfl
@[simp] theorem Cpu.wr_ea (c : Cpu) (a : Word) (v : Byte) : (c.wr a v).ea = c.ea := rfl
@[simp] theorem Cpu.wr_m (c : Cpu) (a : Word) (v : Byte) : (c.wr a v).m = c.m := rfl
@[simp] theorem Cpu.wr_deferred (c : Cpu) (a : Word) (v : Byte) : (c.wr a v).deferred = c.deferred := rfl

/-! ## Cpu.next -/

@[simp] theorem Cpu.next_regs (c : Cpu) : (c.next).regs = c.regs := rfl
@[simp] theorem Cpu.next_ab (c : Cpu) : (c.next).ab = c.ab := rfl
@[simp] theorem Cpu.next_db (c : Cpu) : (c.next).db = c.db := rfl
@[simp] theorem Cpu.next_rw (c : Cpu) : (c.next).rw = c.rw := rfl
@[simp] theorem Cpu.next_sync (c : Cpu) : (c.next).sync = c.sync := rfl
@[simp] theorem Cpu.next_ir (c : Cpu) : (c.next).ir = c.ir := rfl
@[simp] theorem Cpu.next_pendingReset (c : Cpu) : (c.next).pendingReset = c.pendingReset := rfl
@[simp] theorem Cpu.next_pendingNmi (c : Cpu) : (c.next).pendingNmi = c.pendingNmi := rfl
@[simp] theorem Cpu.next_nmiPrev (c : Cpu) : (c.next).nmiPrev = c.nmiPrev := rfl
@[simp] theorem Cpu.next_irqLine (c : Cpu) : (c.next).irqLine = c.irqLine := rfl
@[simp] theorem Cpu.next_resetLine (c : Cpu) : (c.next).resetLine = c.resetLine := rfl
@[simp] theorem Cpu.next_intKind (c : Cpu) : (c.next).intKind = c.intKind := rfl
@[simp] theorem Cpu.next_t (c : Cpu) : (c.next).t = c.t + 1 := rfl
@[simp] theorem Cpu.next_lo (c : Cpu) : (c.next).lo = c.lo := rfl
@[simp] theorem Cpu.next_hi (c : Cpu) : (c.next).hi = c.hi := rfl
@[simp] theorem Cpu.next_ptr (c : Cpu) : (c.next).ptr = c.ptr := rfl
@[simp] theorem Cpu.next_ea (c : Cpu) : (c.next).ea = c.ea := rfl
@[simp] theorem Cpu.next_m (c : Cpu) : (c.next).m = c.m := rfl
@[simp] theorem Cpu.next_deferred (c : Cpu) : (c.next).deferred = c.deferred := rfl

/-! ## Cpu.last -/

@[simp] theorem Cpu.last_regs (c : Cpu) : (c.last).regs = c.regs := rfl
@[simp] theorem Cpu.last_ab (c : Cpu) : (c.last).ab = c.ab := rfl
@[simp] theorem Cpu.last_db (c : Cpu) : (c.last).db = c.db := rfl
@[simp] theorem Cpu.last_rw (c : Cpu) : (c.last).rw = c.rw := rfl
@[simp] theorem Cpu.last_sync (c : Cpu) : (c.last).sync = c.sync := rfl
@[simp] theorem Cpu.last_ir (c : Cpu) : (c.last).ir = c.ir := rfl
@[simp] theorem Cpu.last_pendingReset (c : Cpu) : (c.last).pendingReset = c.pendingReset := rfl
@[simp] theorem Cpu.last_pendingNmi (c : Cpu) : (c.last).pendingNmi = c.pendingNmi := rfl
@[simp] theorem Cpu.last_nmiPrev (c : Cpu) : (c.last).nmiPrev = c.nmiPrev := rfl
@[simp] theorem Cpu.last_irqLine (c : Cpu) : (c.last).irqLine = c.irqLine := rfl
@[simp] theorem Cpu.last_resetLine (c : Cpu) : (c.last).resetLine = c.resetLine := rfl
@[simp] theorem Cpu.last_intKind (c : Cpu) : (c.last).intKind = c.intKind := rfl
@[simp] theorem Cpu.last_t (c : Cpu) : (c.last).t = 1 := rfl
@[simp] theorem Cpu.last_lo (c : Cpu) : (c.last).lo = c.lo := rfl
@[simp] theorem Cpu.last_hi (c : Cpu) : (c.last).hi = c.hi := rfl
@[simp] theorem Cpu.last_ptr (c : Cpu) : (c.last).ptr = c.ptr := rfl
@[simp] theorem Cpu.last_ea (c : Cpu) : (c.last).ea = c.ea := rfl
@[simp] theorem Cpu.last_m (c : Cpu) : (c.last).m = c.m := rfl
@[simp] theorem Cpu.last_deferred (c : Cpu) : (c.last).deferred = c.deferred := rfl

/-! ## Cpu.setPc -/

@[simp] theorem Cpu.setPc_regs (c : Cpu) (w : Word) : (c.setPc w).regs = { c.regs with pc := w } := rfl
@[simp] theorem Cpu.setPc_ab (c : Cpu) (w : Word) : (c.setPc w).ab = c.ab := rfl
@[simp] theorem Cpu.setPc_db (c : Cpu) (w : Word) : (c.setPc w).db = c.db := rfl
@[simp] theorem Cpu.setPc_rw (c : Cpu) (w : Word) : (c.setPc w).rw = c.rw := rfl
@[simp] theorem Cpu.setPc_sync (c : Cpu) (w : Word) : (c.setPc w).sync = c.sync := rfl
@[simp] theorem Cpu.setPc_ir (c : Cpu) (w : Word) : (c.setPc w).ir = c.ir := rfl
@[simp] theorem Cpu.setPc_pendingReset (c : Cpu) (w : Word) : (c.setPc w).pendingReset = c.pendingReset := rfl
@[simp] theorem Cpu.setPc_pendingNmi (c : Cpu) (w : Word) : (c.setPc w).pendingNmi = c.pendingNmi := rfl
@[simp] theorem Cpu.setPc_nmiPrev (c : Cpu) (w : Word) : (c.setPc w).nmiPrev = c.nmiPrev := rfl
@[simp] theorem Cpu.setPc_irqLine (c : Cpu) (w : Word) : (c.setPc w).irqLine = c.irqLine := rfl
@[simp] theorem Cpu.setPc_resetLine (c : Cpu) (w : Word) : (c.setPc w).resetLine = c.resetLine := rfl
@[simp] theorem Cpu.setPc_intKind (c : Cpu) (w : Word) : (c.setPc w).intKind = c.intKind := rfl
@[simp] theorem Cpu.setPc_t (c : Cpu) (w : Word) : (c.setPc w).t = c.t := rfl
@[simp] theorem Cpu.setPc_lo (c : Cpu) (w : Word) : (c.setPc w).lo = c.lo := rfl
@[simp] theorem Cpu.setPc_hi (c : Cpu) (w : Word) : (c.setPc w).hi = c.hi := rfl
@[simp] theorem Cpu.setPc_ptr (c : Cpu) (w : Word) : (c.setPc w).ptr = c.ptr := rfl
@[simp] theorem Cpu.setPc_ea (c : Cpu) (w : Word) : (c.setPc w).ea = c.ea := rfl
@[simp] theorem Cpu.setPc_m (c : Cpu) (w : Word) : (c.setPc w).m = c.m := rfl
@[simp] theorem Cpu.setPc_deferred (c : Cpu) (w : Word) : (c.setPc w).deferred = c.deferred := rfl

/-! ## Cpu.setS -/

@[simp] theorem Cpu.setS_regs (c : Cpu) (v : Byte) : (c.setS v).regs = { c.regs with s := v } := rfl
@[simp] theorem Cpu.setS_ab (c : Cpu) (v : Byte) : (c.setS v).ab = c.ab := rfl
@[simp] theorem Cpu.setS_db (c : Cpu) (v : Byte) : (c.setS v).db = c.db := rfl
@[simp] theorem Cpu.setS_rw (c : Cpu) (v : Byte) : (c.setS v).rw = c.rw := rfl
@[simp] theorem Cpu.setS_sync (c : Cpu) (v : Byte) : (c.setS v).sync = c.sync := rfl
@[simp] theorem Cpu.setS_ir (c : Cpu) (v : Byte) : (c.setS v).ir = c.ir := rfl
@[simp] theorem Cpu.setS_pendingReset (c : Cpu) (v : Byte) : (c.setS v).pendingReset = c.pendingReset := rfl
@[simp] theorem Cpu.setS_pendingNmi (c : Cpu) (v : Byte) : (c.setS v).pendingNmi = c.pendingNmi := rfl
@[simp] theorem Cpu.setS_nmiPrev (c : Cpu) (v : Byte) : (c.setS v).nmiPrev = c.nmiPrev := rfl
@[simp] theorem Cpu.setS_irqLine (c : Cpu) (v : Byte) : (c.setS v).irqLine = c.irqLine := rfl
@[simp] theorem Cpu.setS_resetLine (c : Cpu) (v : Byte) : (c.setS v).resetLine = c.resetLine := rfl
@[simp] theorem Cpu.setS_intKind (c : Cpu) (v : Byte) : (c.setS v).intKind = c.intKind := rfl
@[simp] theorem Cpu.setS_t (c : Cpu) (v : Byte) : (c.setS v).t = c.t := rfl
@[simp] theorem Cpu.setS_lo (c : Cpu) (v : Byte) : (c.setS v).lo = c.lo := rfl
@[simp] theorem Cpu.setS_hi (c : Cpu) (v : Byte) : (c.setS v).hi = c.hi := rfl
@[simp] theorem Cpu.setS_ptr (c : Cpu) (v : Byte) : (c.setS v).ptr = c.ptr := rfl
@[simp] theorem Cpu.setS_ea (c : Cpu) (v : Byte) : (c.setS v).ea = c.ea := rfl
@[simp] theorem Cpu.setS_m (c : Cpu) (v : Byte) : (c.setS v).m = c.m := rfl
@[simp] theorem Cpu.setS_deferred (c : Cpu) (v : Byte) : (c.setS v).deferred = c.deferred := rfl

/-! ## Cpu.setP -/

@[simp] theorem Cpu.setP_regs (c : Cpu) (q : Flags) : (c.setP q).regs = { c.regs with p := q } := rfl
@[simp] theorem Cpu.setP_ab (c : Cpu) (q : Flags) : (c.setP q).ab = c.ab := rfl
@[simp] theorem Cpu.setP_db (c : Cpu) (q : Flags) : (c.setP q).db = c.db := rfl
@[simp] theorem Cpu.setP_rw (c : Cpu) (q : Flags) : (c.setP q).rw = c.rw := rfl
@[simp] theorem Cpu.setP_sync (c : Cpu) (q : Flags) : (c.setP q).sync = c.sync := rfl
@[simp] theorem Cpu.setP_ir (c : Cpu) (q : Flags) : (c.setP q).ir = c.ir := rfl
@[simp] theorem Cpu.setP_pendingReset (c : Cpu) (q : Flags) : (c.setP q).pendingReset = c.pendingReset := rfl
@[simp] theorem Cpu.setP_pendingNmi (c : Cpu) (q : Flags) : (c.setP q).pendingNmi = c.pendingNmi := rfl
@[simp] theorem Cpu.setP_nmiPrev (c : Cpu) (q : Flags) : (c.setP q).nmiPrev = c.nmiPrev := rfl
@[simp] theorem Cpu.setP_irqLine (c : Cpu) (q : Flags) : (c.setP q).irqLine = c.irqLine := rfl
@[simp] theorem Cpu.setP_resetLine (c : Cpu) (q : Flags) : (c.setP q).resetLine = c.resetLine := rfl
@[simp] theorem Cpu.setP_intKind (c : Cpu) (q : Flags) : (c.setP q).intKind = c.intKind := rfl
@[simp] theorem Cpu.setP_t (c : Cpu) (q : Flags) : (c.setP q).t = c.t := rfl
@[simp] theorem Cpu.setP_lo (c : Cpu) (q : Flags) : (c.setP q).lo = c.lo := rfl
@[simp] theorem Cpu.setP_hi (c : Cpu) (q : Flags) : (c.setP q).hi = c.hi := rfl
@[simp] theorem Cpu.setP_ptr (c : Cpu) (q : Flags) : (c.setP q).ptr = c.ptr := rfl
@[simp] theorem Cpu.setP_ea (c : Cpu) (q : Flags) : (c.setP q).ea = c.ea := rfl
@[simp] theorem Cpu.setP_m (c : Cpu) (q : Flags) : (c.setP q).m = c.m := rfl
@[simp] theorem Cpu.setP_deferred (c : Cpu) (q : Flags) : (c.setP q).deferred = c.deferred := rfl

/-! ## State.withCpu -/

@[simp] theorem State.withCpu_cpu (s : State) (c : Cpu) : (s.withCpu c).cpu = c := rfl
@[simp] theorem State.withCpu_cyc (s : State) (c : Cpu) : (s.withCpu c).cyc = s.cyc := rfl
@[simp] theorem State.withCpu_fault (s : State) (c : Cpu) : (s.withCpu c).fault = s.fault := rfl
@[simp] theorem State.withCpu_dma (s : State) (c : Cpu) : (s.withCpu c).dma = s.dma := rfl
@[simp] theorem State.withCpu_ctl (s : State) (c : Cpu) : (s.withCpu c).ctl = s.ctl := rfl
@[simp] theorem State.withCpu_ram (s : State) (c : Cpu) : (s.withCpu c).ram = s.ram := rfl
@[simp] theorem State.withCpu_prgRam (s : State) (c : Cpu) : (s.withCpu c).prgRam = s.prgRam := rfl
@[simp] theorem State.withCpu_vram (s : State) (c : Cpu) : (s.withCpu c).vram = s.vram := rfl
@[simp] theorem State.withCpu_cart (s : State) (c : Cpu) : (s.withCpu c).cart = s.cart := rfl
@[simp] theorem State.withCpu_ppu (s : State) (c : Cpu) : (s.withCpu c).ppu = s.ppu := rfl
@[simp] theorem State.withCpu_apu (s : State) (c : Cpu) : (s.withCpu c).apu = s.apu := rfl

end Sys2Proof.Machine
end

