-- ==== Sys2Proof/Laws/Stops.lean ====
section
/-! SUPPORT. Bus cycles that stop, and the addresses they stop at (rules R84, R95, R102, R103). -/

namespace Sys2Proof.Machine

/-- A bus cycle whose read has no answer stops with its fault. -/
theorem State.busCycle_read_error {s : State} {f : Fault} (hs : s.PpuSafe) (hr : s.cpu.rw = .read)
    (hf : ∀ t : State, t.cpu.rw = .read → t.cart = s.cart → t.busRead s.cpu.ab = .error f) (hp : ∀ k, cpuTarget s.cpu.ab ≠ .ppu k) :
    s.busCycle .cpu = .error f := by
  obtain ⟨q, hq, -⟩ := State.ppuSteps_idle hs
  have hd : s.driveBus = .ok s := by
    unfold State.driveBus
    rw [hr]
    cases hT : cpuTarget s.cpu.ab <;> first | rfl | exact absurd hT (hp _)
  unfold State.busCycle
  rw [hd, andThen_ok, hq, andThen_ok]
  unfold State.completeRead
  have h1 : (State.latchNmi { s with ppu := q }).cpu.rw = .read := hr
  have h2 : (State.latchNmi { s with ppu := q }).cpu.ab = s.cpu.ab := rfl
  rw [h1]; dsimp only
  rw [h2, hf _ h1 rfl]
  rfl

/-- A bus cycle whose write has no taker stops with its fault. -/
theorem State.busCycle_write_error {s : State} {f : Fault} (hr : s.cpu.rw = .write)
    (hf : s.busWrite s.cpu.ab s.cpu.db = .error f) : s.busCycle .cpu = .error f := by
  unfold State.busCycle State.driveBus
  rw [hr]; dsimp only
  rw [hf]; rfl

theorem cpuTarget_reserved {a : Word} (h : 0x4018 ≤ a.toNat ∧ a.toNat < 0x4020) : cpuTarget a = .reserved := by
  unfold cpuTarget; dsimp only
  repeat (first | rw [if_neg (by omega)] | rw [if_pos (by omega)])

theorem cpuTarget_hole {a : Word} (h : 0x4020 ≤ a.toNat ∧ a.toNat < 0x6000) : cpuTarget a = .hole := by
  unfold cpuTarget; dsimp only
  repeat (first | rw [if_neg (by omega)] | rw [if_pos (by omega)])

theorem cpuTarget_prgRam {a : Word} (h : 0x6000 ≤ a.toNat ∧ a.toNat < 0x8000) : cpuTarget a = .prgRam (a.toNat - 0x6000) := by
  unfold cpuTarget; dsimp only
  repeat (first | rw [if_neg (by omega)] | rw [if_pos (by omega)])

theorem cpuTarget_prgRom {a : Word} (h : 0x8000 ≤ a.toNat) : cpuTarget a = .prgRom (a.toNat - 0x8000) := by
  unfold cpuTarget; dsimp only
  repeat rw [if_neg (by omega)]

end Sys2Proof.Machine
end

