-- ==== Sys2Proof/Tests/Slice0.lean ====
section
/-! SUPPORT. The model's own tests. The expected values are those of the vectors of spec 95_test_vectors.md (named in
each comment) or written out from the rule named; the witnesses at the end meet the hypotheses of the statements. -/

namespace Sys2Proof.Tests

open Sys2Proof Sys2Proof.Machine

set_option Elab.async false

/-! ## WellFormed: the one check refuses an offset outside −128..127 (rule R155) -/

theorem test_wellFormed_offset_high : (Instr.bne 128).wellFormed = false := by decide

theorem test_wellFormed_offset_low : (Instr.bcs (-129)).wellFormed = false := by decide

theorem test_wellFormed_offset_bounds :
    (Instr.bpl 127).wellFormed = true ∧ (Instr.bpl (-128)).wellFormed = true := by decide

/-! ## Decode: every row of the table of rule R150 -/

/-- Each byte sequence decodes to its instruction, and nothing is left over. -/
def decodesAll (rows : List (List Byte × Instr)) : Bool :=
  rows.all fun r => match decode r.1 with
    | .ok (i, []) => decide (i = r.2)
    | _ => false

theorem test_decode_read_and_use_1 : decodesAll (
    [([0x21, 0x34], .andIzx 0x34), ([0x24, 0x34], .bitZp 0x34), ([0x25, 0x34], .andZp 0x34),
    ([0x29, 0x34], .andImm 0x34), ([0x2C, 0x34, 0x12], .bitAbs 0x1234), ([0x2D, 0x34, 0x12], .andAbs 0x1234),
    ([0x31, 0x34], .andIzy 0x34), ([0x35, 0x34], .andZpx 0x34), ([0x39, 0x34, 0x12], .andAby 0x1234),
    ([0x3D, 0x34, 0x12], .andAbx 0x1234), ([0x61, 0x34], .adcIzx 0x34), ([0x65, 0x34], .adcZp 0x34)]) = true := by decide +kernel

theorem test_decode_read_and_use_2 : decodesAll (
    [([0x41, 0x34], .eorIzx 0x34), ([0x45, 0x34], .eorZp 0x34), ([0x49, 0x34], .eorImm 0x34),
    ([0x4D, 0x34, 0x12], .eorAbs 0x1234), ([0x51, 0x34], .eorIzy 0x34), ([0x55, 0x34], .eorZpx 0x34),
    ([0x59, 0x34, 0x12], .eorAby 0x1234), ([0x5D, 0x34, 0x12], .eorAbx 0x1234), ([0xA1, 0x34], .ldaIzx 0x34),
    ([0xA2, 0x34], .ldxImm 0x34), ([0xA5, 0x34], .ldaZp 0x34), ([0xA6, 0x34], .ldxZp 0x34)]) = true := by decide +kernel

theorem test_decode_read_and_use_3 : decodesAll (
    [([0x01, 0x34], .oraIzx 0x34), ([0x05, 0x34], .oraZp 0x34), ([0x09, 0x34], .oraImm 0x34),
    ([0x0D, 0x34, 0x12], .oraAbs 0x1234), ([0x11, 0x34], .oraIzy 0x34), ([0x15, 0x34], .oraZpx 0x34),
    ([0x19, 0x34, 0x12], .oraAby 0x1234), ([0x1D, 0x34, 0x12], .oraAbx 0x1234), ([0xA0, 0x34], .ldyImm 0x34),
    ([0xA4, 0x34], .ldyZp 0x34), ([0xAC, 0x34, 0x12], .ldyAbs 0x1234), ([0xB4, 0x34], .ldyZpx 0x34)]) = true := by decide +kernel

theorem test_decode_stores : decodesAll (
    [([0x81, 0x34], .staIzx 0x34), ([0x84, 0x34], .styZp 0x34), ([0x85, 0x34], .staZp 0x34),
    ([0x86, 0x34], .stxZp 0x34), ([0x8C, 0x34, 0x12], .styAbs 0x1234), ([0x8D, 0x34, 0x12], .staAbs 0x1234),
    ([0x8E, 0x34, 0x12], .stxAbs 0x1234), ([0x91, 0x34], .staIzy 0x34), ([0x94, 0x34], .styZpx 0x34),
    ([0x95, 0x34], .staZpx 0x34), ([0x96, 0x34], .stxZpy 0x34), ([0x99, 0x34, 0x12], .staAby 0x1234)]) = true := by decide +kernel

theorem test_decode_read_modify_write : decodesAll (
    [([0x06, 0x34], .aslZp 0x34), ([0x0A], .aslAcc), ([0x0E, 0x34, 0x12], .aslAbs 0x1234),
    ([0x16, 0x34], .aslZpx 0x34), ([0x1E, 0x34, 0x12], .aslAbx 0x1234), ([0x26, 0x34], .rolZp 0x34),
    ([0x2A], .rolAcc), ([0x2E, 0x34, 0x12], .rolAbs 0x1234), ([0x36, 0x34], .rolZpx 0x34),
    ([0x3E, 0x34, 0x12], .rolAbx 0x1234), ([0x46, 0x34], .lsrZp 0x34), ([0x4A], .lsrAcc)]) = true := by decide +kernel

theorem test_decode_single_byte : decodesAll (
    [([0x18], .clc), ([0x38], .sec), ([0x58], .cli), ([0x78], .sei), ([0x88], .dey), ([0x8A], .txa), ([0x98], .tya),
    ([0x9A], .txs), ([0xA8], .tay), ([0xAA], .tax), ([0xB8], .clv), ([0xBA], .tsx)]) = true := by decide +kernel

theorem test_decode_branches : decodesAll (
    [([0x10, 0xFE], .bpl (-2)), ([0x30, 0xFE], .bmi (-2)), ([0x50, 0xFE], .bvc (-2)), ([0x70, 0xFE], .bvs (-2)),
    ([0x90, 0xFE], .bcc (-2)), ([0xB0, 0xFE], .bcs (-2)), ([0xD0, 0xFE], .bne (-2)), ([0xF0, 0xFE], .beq (-2))]) = true := by decide +kernel

theorem test_decode_control : decodesAll (
    [([0x00], .brk), ([0x08], .php), ([0x20, 0x34, 0x12], .jsr 0x1234), ([0x28], .plp), ([0x40], .rti),
    ([0x48], .pha), ([0x4C, 0x34, 0x12], .jmpAbs 0x1234), ([0x60], .rts), ([0x68], .pla),
    ([0x6C, 0x34, 0x12], .jmpInd 0x1234)]) = true := by decide +kernel
/-! Words bit by bit: opcode byte, then the operand, low byte first (rules R81, R141). -/

theorem test_bits_adc_abx : decode [0b01111101, 0b00110100, 0b00010010] = .ok (.adcAbx 0b0001001000110100, []) := rfl
theorem test_bits_stx_zpy : decode [0b10010110, 0b00010000] = .ok (.stxZpy 0b00010000, []) := rfl
theorem test_bits_ror_zpx : decode [0b01110110, 0b11110000] = .ok (.rorZpx 0b11110000, []) := rfl
theorem test_bits_asl_acc : decode [0b00001010] = .ok (.aslAcc, []) := rfl
theorem test_bits_dex : decode [0b11001010] = .ok (.dex, []) := rfl
theorem test_bits_bvs : decode [0b01110000, 0b00000101] = .ok (.bvs 5, []) := rfl
theorem test_bits_jmp_ind : decode [0b01101100, 0b11111111, 0b00000010] = .ok (.jmpInd 0b0000001011111111, []) := rfl
theorem test_bits_pla : decode [0b01101000] = .ok (.pla, []) := rfl
theorem test_bits_rti : decode [0b01000000] = .ok (.rti, []) := rfl

theorem test_decode_refuses :
    decode [] = .error .noBytes ∧ decode [0x02] = .error (.illegalOpcode 0x02) ∧
      decode [0xAD, 0x34] = .error (.missingOperand 0xAD) ∧ decode [0xA9] = .error (.missingOperand 0xA9) := ⟨rfl, rfl, rfl, rfl⟩

/-- The host's table words: bit 0 is the low bit of the first byte. -/
theorem test_table_words :
    decodeTableWord 24 0x0234AD = some (.ldaAbs 0x0234) ∧ decodeTableWord 16 0xFED0 = some (.bne (-2)) ∧
      decodeTableWord 8 0x00 = some .brk ∧ decodeTableWord 8 0x02 = none := by decide

/-! ## A machine to test on: code at 0x8000, RAM bytes, registers; PRG-RAM absent -/

/-- Vector B's start: P = 0x24. -/
def flags0 : Flags := ⟨false, false, true, false, false, false⟩

def regs0 : Regs := ⟨0, 0, 0, 0xFF, 0x8000, flags0⟩

def machine (code : List Byte) (ram : List (Nat × Byte)) (r : Regs) : State :=
  let cart := { Cartridge.blank with prgRom := Memory.writeBytes [] 0 code }
  let s := State.powerOn cart { PowerOn.default with ram := ram.foldl (fun m c => m.write c.1 c.2) [] } AudioParams.default
  { s with cpu := { s.cpu with pendingReset := false, regs := r } }

/-- One step ends in these registers, after `n` cycles, with these bytes in memory. -/
def steps (s : State) (r : Regs) (n : Nat) (stored : List (Word × Byte)) : Bool :=
  match step s with
  | .next t => decide (t.cpu.regs = r) && decide (t.cyc = n) && stored.all fun c => decide (t.peek c.1 = some c.2)
  | _ => false

/-! ## Read-and-use (vectors B1, B2) -/

/-- B1.1. -/
theorem test_lda_imm : steps (machine [0xA9, 0x42] [] regs0) { regs0 with a := 0x42, pc := 0x8002 } 2 [] = true := by
  decide +kernel

/-- B1.7: the page-cross cycle. -/
theorem test_lda_abx_cross : steps (machine [0xBD, 0xFF, 0x02] [(0x300, 0x31)] { regs0 with x := 1 })
    { regs0 with x := 1, a := 0x31, pc := 0x8003 } 5 [] = true := by decide +kernel

/-- B1.4: the zero-page index wraps. -/
theorem test_ldx_zpy : steps (machine [0xB6, 0xF0] [(0x10, 0x55)] { regs0 with y := 0x20 })
    { regs0 with y := 0x20, x := 0x55, pc := 0x8002 } 4 [] = true := by decide +kernel

/-- B2, LDY of 0. -/
theorem test_ldy_imm : steps (machine [0xA0, 0x00] [] { regs0 with y := 7 })
    { regs0 with y := 0, pc := 0x8002, p := { flags0 with z := true } } 2 [] = true := by decide +kernel

/-- B1.9: the pointer's high byte wraps; BE + BF (B2). -/
theorem test_adc_izx : steps (machine [0x61, 0xFE] [(0xFF, 0x34), (0, 0x02), (0x234, 0xBF)] { regs0 with x := 1, a := 0xBE })
    { regs0 with x := 1, a := 0x7D, pc := 0x8002, p := { flags0 with v := true, c := true } } 6 [] = true := by
  decide +kernel

/-- B2: 09 + 01 with D set is 0A. -/
theorem test_adc_decimal : steps (machine [0x69, 0x01] [] { regs0 with a := 0x09, p := { flags0 with d := true } })
    { regs0 with a := 0x0A, pc := 0x8002, p := { flags0 with d := true } } 2 [] = true := by decide +kernel

/-- B1.10, the address wraps; 50 − B0 (B2). -/
theorem test_sbc_izy : steps (machine [0xF1, 0x10] [(0x10, 0xFF), (0x11, 0xFF), (0, 0xB0)]
      { regs0 with y := 1, a := 0x50, p := { flags0 with c := true } })
    { regs0 with y := 1, a := 0xA0, pc := 0x8002, p := { flags0 with n := true, v := true } } 6 [] = true := by
  decide +kernel

/-- B2: 10 − 01 with a borrow in. -/
theorem test_sbc_borrow : steps (machine [0xE9, 0x01] [] { regs0 with a := 0x10 })
    { regs0 with a := 0x0E, pc := 0x8002, p := { flags0 with c := true } } 2 [] = true := by decide +kernel

/-- B2, and B1.6: no page crossed, the cycle elided. -/
theorem test_and_aby : steps (machine [0x39, 0x10, 0x02] [(0x220, 0x3C)] { regs0 with a := 0xF0, y := 0x10 })
    { regs0 with a := 0x30, y := 0x10, pc := 0x8003 } 4 [] = true := by decide +kernel

theorem test_ora_zp : steps (machine [0x05, 0x34] [(0x34, 0x80)] { regs0 with a := 0x0F })
    { regs0 with a := 0x8F, pc := 0x8002, p := { flags0 with n := true } } 3 [] = true := by decide +kernel

/-- B2; ZPX as in B1.3. -/
theorem test_eor_zpx : steps (machine [0x55, 0x01] [(0, 0x5A)] { regs0 with a := 0x5A, x := 0xFF })
    { regs0 with a := 0, x := 0xFF, pc := 0x8002, p := { flags0 with z := true } } 4 [] = true := by decide +kernel

/-- B2: 80 against 00, 7F against 80. -/
theorem test_cmp_carry : steps (machine [0xC9, 0x00] [] { regs0 with a := 0x80 })
    { regs0 with a := 0x80, pc := 0x8002, p := { flags0 with n := true, c := true } } 2 [] = true := by decide +kernel

theorem test_cmp_borrow : steps (machine [0xC9, 0x80] [] { regs0 with a := 0x7F, p := { flags0 with c := true } })
    { regs0 with a := 0x7F, pc := 0x8002, p := { flags0 with n := true } } 2 [] = true := by decide +kernel

theorem test_cpx_imm : steps (machine [0xE0, 0x10] [] { regs0 with x := 0x10 })
    { regs0 with x := 0x10, pc := 0x8002, p := { flags0 with z := true, c := true } } 2 [] = true := by decide +kernel

theorem test_cpy_imm : steps (machine [0xC0, 0xFF] [] { regs0 with p := { flags0 with n := true } })
    { regs0 with pc := 0x8002 } 2 [] = true := by decide +kernel

theorem test_bit_zp : steps (machine [0x24, 0x10] [(0x10, 0xC0)] { regs0 with a := 1 })
    { regs0 with a := 1, pc := 0x8002, p := { flags0 with n := true, v := true, z := true } } 3 [] = true := by
  decide +kernel

/-! ## Stores (vectors B3, C2.4) -/

theorem test_sta_abx : steps (machine [0x9D, 0xFF, 0x02] [] { regs0 with a := 0x5B, x := 1 })
    { regs0 with a := 0x5B, x := 1, pc := 0x8003 } 5 [(0x300, 0x5B), (0x200, 0), (0x1B00, 0x5B)] = true := by decide +kernel

theorem test_sta_izy : steps (machine [0x91, 0x10] [(0x11, 0x03)] { regs0 with a := 0x5C, y := 1 })
    { regs0 with a := 0x5C, y := 1, pc := 0x8002 } 6 [(0x301, 0x5C)] = true := by decide +kernel

theorem test_stx_zpy : steps (machine [0x96, 0x10] [] { regs0 with x := 0x66, y := 0xF8 })
    { regs0 with x := 0x66, y := 0xF8, pc := 0x8002 } 4 [(0x0008, 0x66), (0x0010, 0)] = true := by decide +kernel

/-- Rule R253, as B3.6. -/
theorem test_sty_abs : steps (machine [0x8C, 0x00, 0x02] [] { regs0 with y := 0x42 })
    { regs0 with y := 0x42, pc := 0x8003 } 4 [(0x0200, 0x42)] = true := by decide +kernel

/-! ## Read-modify-write (vectors B4) -/

theorem test_asl_zp : steps (machine [0x06, 0x10] [(0x10, 0x88)] regs0)
    { regs0 with pc := 0x8002, p := { flags0 with c := true } } 5 [(0x10, 0x10)] = true := by decide +kernel

theorem test_inc_abx : steps (machine [0xFE, 0xFF, 0x02] [(0x300, 0xFF)] { regs0 with x := 1 })
    { regs0 with x := 1, pc := 0x8003, p := { flags0 with z := true } } 7 [(0x300, 0), (0x200, 0)] = true := by
  decide +kernel

theorem test_ror_zpx : steps (machine [0x76, 0xF0] [(0x10, 0x01)] { regs0 with x := 0x20, p := { flags0 with c := true } })
    { regs0 with x := 0x20, pc := 0x8002, p := { flags0 with n := true, c := true } } 6 [(0x10, 0x80)] = true := by
  decide +kernel

theorem test_lsr_acc : steps (machine [0x4A] [] { regs0 with a := 0x11 })
    { regs0 with a := 0x08, pc := 0x8001, p := { flags0 with c := true } } 2 [] = true := by decide +kernel

theorem test_rol_abs : steps (machine [0x2E, 0x00, 0x03] [(0x300, 0x80)] { regs0 with p := { flags0 with c := true } })
    { regs0 with pc := 0x8003, p := { flags0 with c := true } } 6 [(0x300, 0x01)] = true := by decide +kernel

theorem test_dec_zp : steps (machine [0xC6, 0x10] [] regs0)
    { regs0 with pc := 0x8002, p := { flags0 with n := true } } 5 [(0x10, 0xFF)] = true := by decide +kernel

/-! ## Single-byte (vectors B5): two cycles, PC one past the opcode -/

/-- The instruction at 0x8000 ends in these registers, PC aside. -/
def single (op : Byte) (r r' : Regs) : Bool := steps (machine [op] [] r) { r' with pc := 0x8001 } 2 []

theorem test_dex_wraps : single 0xCA regs0 { regs0 with x := 0xFF, p := { flags0 with n := true } } = true := by
  decide +kernel
theorem test_dey : single 0x88 { regs0 with y := 0x80 } { regs0 with y := 0x7F } = true := by decide +kernel
theorem test_inx : single 0xE8 { regs0 with x := 0x7F } { regs0 with x := 0x80, p := { flags0 with n := true } } = true := by
  decide +kernel
theorem test_iny_wraps : single 0xC8 { regs0 with y := 0xFF } { regs0 with y := 0, p := { flags0 with z := true } } = true := by
  decide +kernel
theorem test_tax : single 0xAA { regs0 with x := 5 } { regs0 with x := 0, p := { flags0 with z := true } } = true := by
  decide +kernel
theorem test_tay : single 0xA8 { regs0 with a := 0x80 }
    { regs0 with a := 0x80, y := 0x80, p := { flags0 with n := true } } = true := by decide +kernel
theorem test_txa : single 0x8A { regs0 with x := 0x7F } { regs0 with x := 0x7F, a := 0x7F } = true := by decide +kernel
theorem test_tya : single 0x98 { regs0 with a := 3 } { regs0 with a := 0, p := { flags0 with z := true } } = true := by
  decide +kernel
theorem test_tsx : single 0xBA { regs0 with s := 0x80 }
    { regs0 with s := 0x80, x := 0x80, p := { flags0 with n := true } } = true := by decide +kernel
theorem test_txs_no_flags : single 0x9A regs0 { regs0 with s := 0 } = true := by decide +kernel
theorem test_clc : single 0x18 { regs0 with p := { flags0 with c := true } } regs0 = true := by decide +kernel
theorem test_sec : single 0x38 regs0 { regs0 with p := { flags0 with c := true } } = true := by decide +kernel
theorem test_cld : single 0xD8 { regs0 with p := { flags0 with d := true } } regs0 = true := by decide +kernel
theorem test_sed : single 0xF8 regs0 { regs0 with p := { flags0 with d := true } } = true := by decide +kernel
theorem test_cli : single 0x58 regs0 { regs0 with p := { flags0 with i := false } } = true := by decide +kernel
theorem test_sei : single 0x78 { regs0 with p := { flags0 with i := false } } regs0 = true := by decide +kernel
theorem test_clv : single 0xB8 { regs0 with p := { flags0 with v := true } } regs0 = true := by decide +kernel
theorem test_nop : single 0xEA { regs0 with p := { flags0 with z := true } } { regs0 with p := { flags0 with z := true } } = true := by
  decide +kernel

/-! ## Branches (vectors B7) -/

/-- The branch of `code` at `pc`: where it goes and in how many cycles. -/
def branches (code : List Byte) (pc : Word) (p : Flags) (pc' : Word) (n : Nat) : Bool :=
  let s := machine [] [] { regs0 with pc := pc, p := p }
  let rom := Memory.writeBytes [] (pc.toNat - 0x8000) code
  steps { s with cart := { s.cart with prgRom := rom } } { regs0 with pc := pc', p := p } n []

theorem test_bne_not_taken : branches [0xD0, 0x02] 0x8000 { flags0 with z := true } 0x8002 2 = true := by decide +kernel
/-- B7.11: the page test is of the address after the branch. -/
theorem test_bne_cross : branches [0xD0, 0x10] 0x80FD flags0 0x810F 4 = true := by decide +kernel
theorem test_bcc : branches [0x90, 0x00] 0x8000 flags0 0x8002 3 = true := by decide +kernel
theorem test_beq_forward : branches [0xF0, 0x40] 0x80F0 { flags0 with z := true } 0x8132 4 = true := by decide +kernel
theorem test_bpl_backward : branches [0x10, 0x80] 0x8110 flags0 0x8092 4 = true := by decide +kernel
theorem test_bmi : branches [0x30, 0x7F] 0x8080 { flags0 with n := true } 0x8101 4 = true := by decide +kernel
theorem test_bcs : branches [0xB0, 0xFD] 0x8100 { flags0 with c := true } 0x80FF 4 = true := by decide +kernel
theorem test_bvs_not_taken : branches [0x70, 0x05] 0x8000 flags0 0x8002 2 = true := by decide +kernel
theorem test_bvc : branches [0x50, 0x05] 0x8000 flags0 0x8007 3 = true := by decide +kernel

/-! ## Stack, jumps, subroutines (vectors B6) -/

theorem test_pha_wraps : steps (machine [0x48] [] { regs0 with a := 0x42, s := 0 })
    { regs0 with a := 0x42, s := 0xFF, pc := 0x8001 } 3 [(0x0100, 0x42)] = true := by decide +kernel

theorem test_pla : steps (machine [0x68] [(0x100, 0x80)] regs0)
    { regs0 with a := 0x80, s := 0, pc := 0x8001, p := { flags0 with n := true } } 4 [] = true := by decide +kernel

theorem test_php : steps (machine [0x08] [] { regs0 with p := ⟨true, false, false, false, false, true⟩ })
    { regs0 with s := 0xFE, pc := 0x8001, p := ⟨true, false, false, false, false, true⟩ } 3 [(0x01FF, 0xB1)] = true := by
  decide +kernel

/-- B6.6: bits 4 and 5 of the pulled byte are dropped. -/
theorem test_plp : steps (machine [0x28] [(0x1FF, 0x30)] { regs0 with s := 0xFE, p := ⟨true, true, true, true, true, true⟩ })
    { regs0 with pc := 0x8001, p := ⟨false, false, false, false, false, false⟩ } 4 [] = true := by decide +kernel

theorem test_jmp_abs : steps (machine [0x4C, 0x78, 0x06] [] regs0) { regs0 with pc := 0x0678 } 3 [] = true := by decide +kernel

/-- B6.9: the pointer's high byte comes from the same page. -/
theorem test_jmp_ind_wraps : steps (machine [0x6C, 0xFF, 0x02] [(0x2FF, 0x34), (0x200, 0x12), (0x300, 0x56)] regs0)
    { regs0 with pc := 0x1234 } 5 [] = true := by decide +kernel

/-- B6.11: the stack pointer wraps between the pushes. -/
theorem test_jsr : steps (machine [0x20, 0x78, 0x06] [] { regs0 with s := 0 })
    { regs0 with s := 0xFE, pc := 0x0678 } 6 [(0x0100, 0x80), (0x01FF, 0x02)] = true := by decide +kernel

/-- B6.12: the increment carries into the high byte. -/
theorem test_rts : steps (machine [0x60] [(0x1FE, 0xFF), (0x1FF, 0x05)] { regs0 with s := 0xFD })
    { regs0 with pc := 0x0600 } 6 [] = true := by decide +kernel

/-! ## BRK, RTI, interrupts, reset (vectors B8) -/

/-- B8.2, at 0x8000, with the vector 0xFFFE at 0x9000: return address BRK + 2, status with bit 4 set. -/
theorem test_brk :
    steps (let s := machine [0x00, 0xEA] [] { regs0 with p := ⟨false, false, true, false, true, true⟩ }
        { s with cart := { s.cart with prgRom := s.cart.prgRom.write 0x7FFF 0x90 } })
      { regs0 with s := 0xFC, pc := 0x9000, p := ⟨false, false, true, false, true, true⟩ } 7
      [(0x01FF, 0x80), (0x01FE, 0x02), (0x01FD, 0xF4)] = true := by decide +kernel

/-- B8.1. -/
theorem test_rti : steps (machine [0x40] [(0x1FD, 0xDB), (0x1FE, 0x21), (0x1FF, 0x07)] { regs0 with s := 0xFC })
    { regs0 with pc := 0x0721, p := ⟨true, true, false, true, true, true⟩ } 6 [] = true := by decide +kernel

/-- B8.9: an NMI pending before a BRK: the BRK is not executed, bit 4 of the pushed status is clear. -/
theorem test_nmi :
    steps (let s := machine [0x00] [] { regs0 with p := ⟨false, false, true, false, false, true⟩ }
        { s with cpu := { s.cpu with pendingNmi := true, irqLine := true }
                 cart := { s.cart with prgRom := s.cart.prgRom.write 0x7FFB 0x91 } })
      { regs0 with s := 0xFC, pc := 0x9100, p := ⟨false, false, true, false, false, true⟩ } 7
      [(0x01FF, 0x80), (0x01FE, 0x00), (0x01FD, 0xA4)] = true := by decide +kernel

/-- B8.5 and B8.7: an IRQ is taken when I is clear, and waits when it is set. -/
theorem test_irq_masked :
    steps (let s := machine [0xEA] [] regs0
        { s with cpu := { s.cpu with irqLine := true } }) { regs0 with pc := 0x8001 } 2 [] = true := by decide +kernel

theorem test_irq_taken :
    steps (let s := machine [0xEA] [] { regs0 with p := ⟨false, false, false, false, false, true⟩ }
        { s with cpu := { s.cpu with irqLine := true } })
      { regs0 with s := 0xFC, pc := 0, p := ⟨false, false, true, false, false, true⟩ } 7 [(0x01FD, 0xA0)] = true := by
  decide +kernel

/-- B8.3: the reset sequence of the power-on state: S = 0xFD, I set, seven cycles, no write. -/
theorem test_reset : steps (State.powerOn { Cartridge.blank with prgRom := [(0x7FFD, 0x80)] } PowerOn.default AudioParams.default)
    ⟨0, 0, 0, 0xFD, 0x8000, flags0⟩ 7 [(0x0100, 0), (0x01FF, 0), (0x01FE, 0)] = true := by decide +kernel

/-! ## Faults (vectors C8) -/

/-- The step of this code at 0x8000 stops with this fault. -/
def stops (code : List Byte) (f : Fault) : Bool :=
  match step (machine code [] regs0) with
  | .fault g => decide (g = f)
  | _ => false

theorem test_stop_illegal : stops [0x02] (.illegalOpcode 0x02 0x8000) = true := by decide +kernel
theorem test_stop_reserved_read : stops [0xAD, 0x18, 0x40] (.reservedIO 0x4018 .read) = true := by decide +kernel
theorem test_stop_reserved_write : stops [0x8D, 0x18, 0x40] (.reservedIO 0x4018 .write) = true := by decide +kernel
theorem test_stop_rom : stops [0x8D, 0x00, 0x80] (.romWrite 0x8000) = true := by decide +kernel
theorem test_stop_hole : stops [0xAD, 0x00, 0x50] (.cartridgeUnmapped 0x5000) = true := by decide +kernel
theorem test_stop_prgRam : stops [0xAD, 0x00, 0x60] (.cartridgeUnmapped 0x6000) = true := by decide +kernel
theorem test_stop_chr : (match State.ppuStep { machine [] [] regs0 with
      ppu := { Ppu.powerOn PowerOn.default with v := 0x1000, access := true, cpuRw := .write, cpuReg := 7 } } with
    | .error f => decide (f = .chrWrite 0x1000)
    | .ok _ => false) = true := by decide +kernel

/-! ## Devices (vectors C2, C3, C4, C7) -/

/-- C2.1 to C2.3. -/
theorem test_mirroring :
    vramIndex .vertical 0x2005 = 5 ∧ vramIndex .vertical 0x2805 = 5 ∧ vramIndex .vertical 0x2405 = 0x405 ∧
      vramIndex .horizontal 0x2405 = 5 ∧ vramIndex .horizontal 0x2C05 = 5 ∧ vramIndex .vertical 0x3005 = 5 := by
  decide +kernel

/-- C3.4: OAMADDR 0xFE, then three OAMDATA writes. -/
theorem test_oamData :
    (let p := (((({ Ppu.powerOn PowerOn.default with oamAddr := 0xFE } : Ppu).writeOamData 1).writeOamData 2).writeOamData 3)
     decide (p.oam.read 0xFE = 1 ∧ p.oam.read 0xFF = 2 ∧ p.oam.read 0 = 3 ∧ p.oamAddr = 1)) = true := by decide +kernel

/-- C4.1 to C4.11. -/
theorem test_scroll_x : incrementX 0x0005 = 0x0006 ∧ incrementX 0x001F = 0x0400 ∧ incrementX 0x041F = 0 := by decide +kernel

theorem test_scroll_y :
    incrementY 0 = 0x1000 ∧ incrementY 0x7000 = 0x0020 ∧ incrementY 0x73A0 = 0x0800 ∧ incrementY 0x7BA0 = 0 ∧
      incrementY 0x73C0 = 0x03E0 ∧ incrementY 0x73E0 = 0 := by decide +kernel

theorem test_scroll_copy : copyHorizontal 0x7BE0 0x041F = 0x7FFF ∧ copyVertical 0x041F 0x7BE0 = 0x7FFF := by decide +kernel

/-- C3.2: a PPUSTATUS read during v-blank. -/
theorem test_status_read :
    (let p := ({ Ppu.powerOn PowerOn.default with vblankStarted := true, w := true } : Ppu).readStatus
     decide (p.cpuData = 0x80 ∧ p.vblankStarted = false ∧ p.w = false ∧ p.readStatus.cpuData = 0)) = true := by decide +kernel

/-- Rule R522: a PPUDATA write that meets a rendering fetch (line 0, dot 5, a pattern address) is no fault. -/
theorem test_ppuData_rendering : (match State.ppuStep { machine [] [] regs0 with
      ppu := { Ppu.powerOn PowerOn.default with
        v := 0x2000, access := true, cpuRw := .write, cpuReg := 7, dot := 5,
        mask := ⟨false, false, false, true, false, 0⟩ } } with
    | .error _ => false
    | .ok s => decide (s.ppu.v = 0x2001 ∧ s.vram = [])) = true := by decide +kernel

/-- C6.1 and C6.2: the number of DMA cycles. -/
theorem test_dma_length :
    ({ machine [] [] regs0 with cyc := 12 } : State).dmaStart 4 |>.dma.pending |> (· = 513) := by decide +kernel

theorem test_dma_length_odd :
    ({ machine [] [] regs0 with cyc := 13 } : State).dmaStart 4 |>.dma.pending |> (· = 514) := by decide +kernel

/-- A6: indexes 0, 1 and 31 of the length table. -/
theorem test_lengths : lengthEntry 0 = 10 ∧ lengthEntry 1 = 254 ∧ lengthEntry 31 = 30 := by decide +kernel

/-- Rules R4, R434, R470: another output rate (1,789,773 div 16,000 = 111) and another duty table, row 2 all set. -/
theorem test_audio_params :
    (let audio : AudioParams := ⟨8000, AudioParams.default.duty.set 2 #v[true, true, true, true, true, true, true, true]⟩
     let p : Pulse := { (Apu.powerOn audio).pulse1 with duty := 2, seqPos := 5 }
     decide (Config.samplePeriod audio.outputRate = 111 ∧ p.dutyBit audio = true ∧
       p.dutyBit AudioParams.default = false ∧ (Apu.powerOn audio).step.params = audio)) = true := by decide +kernel

/-! ## Witnesses: for every statement with hypotheses, a concrete case that meets them all

Each is named after its statement; one witness for each clause. -/

/-- The result is a next state. -/
def isNext : Result → Bool
  | .next _ => true
  | _ => false

/-- The state a result gives, or the state it started from. -/
def stateOf (s : State) : Result → State
  | .next t => t
  | _ => s

theorem next_stateOf {r : Result} {s : State} (h : isNext r = true) : r = .next (stateOf s r) := by
  cases r <;> first | rfl | cases h

/-- The computation succeeds. -/
def isOk {ε α : Type} : Except ε α → Bool
  | .ok _ => true
  | .error _ => false

/-- The value a computation gives, or the one it started from. -/
def valueOf {ε α : Type} (x : α) : Except ε α → α
  | .ok y => y
  | .error _ => x

theorem ok_valueOf {ε α : Type} {r : Except ε α} {x : α} (h : isOk r = true) : r = .ok (valueOf x r) := by
  cases r <;> first | rfl | cases h

/-- A machine at the boundary, nothing pending, ready to run; 0x42 at 0x0010, a pointer to 0x02FF at 0x0020. -/
def ready : State := machine [0xEA, 0xEA, 0xEA] [(0x10, 0x42), (0x20, 0xFF), (0x21, 0x02)] { regs0 with y := 1 }

theorem ready_safe : ready.PpuSafe := ⟨by decide, rfl, .inl rfl⟩
theorem ready_canRun : ready.CanRun := ⟨⟨rfl, ready_safe⟩, rfl⟩
theorem ready_boundary : ready.AtBoundary := ⟨rfl, rfl, rfl, rfl, rfl⟩
theorem ready_memories : MemoriesOk ready := by constructor <;> decide +kernel
theorem ready_counters : CountersOk ready := by
  constructor <;> decide +kernel
theorem ready_pc : ready.readable ready.cpu.regs.pc = true := rfl
theorem ready_y : ready.cpu.regs.y = 1 := rfl

/-- No dummy read on the way. -/
theorem noDummy {o : Operand} {e : Bool} {s : State} (h : o.dummyRead e s = none) :
    ∀ d, o.dummyRead e s = some d → s.readable d = true := by
  intro d hd; rw [h] at hd; cases hd

/-- A dummy read in RAM. -/
theorem ramDummy {o : Operand} {e : Bool} {s : State} {d' : Word} (h : o.dummyRead e s = some d')
    (hr : s.readable d' = true) : ∀ d, o.dummyRead e s = some d → s.readable d = true := by
  intro d hd; rw [h] at hd; cases hd; exact hr

theorem witness_DecodeAfterEncode :
    (Instr.bne (-128)).wellFormed = true ∧ (Instr.bne 127).wellFormed = true ∧
      (Instr.adcAbx 0xFFFF).wellFormed = true := by decide

theorem witness_EncodeAfterDecode : decode [0x10, 0x80, 0x77] = .ok (.bpl (-128), [0x77]) := rfl

theorem witness_StepRunsTheDecodedInstruction :
    let s := machine [0x20, 0x78, 0x06] [] regs0
    s.AtBoundary ∧ s.PpuSafe ∧ s.NoInterrupt ∧ s.CodeAt [0x20, 0x78, 0x06] ∧
      decode [0x20, 0x78, 0x06] = .ok (.jsr 0x0678, []) := by
  refine ⟨⟨rfl, rfl, rfl, rfl, rfl⟩, ⟨by decide, rfl, .inl rfl⟩, ⟨rfl, rfl, .inl rfl⟩, ?_, rfl⟩
  intro k h
  match k, h with
  | 0, _ => show State.peek _ _ = some (0x20 : Byte); decide +kernel
  | 1, _ => show State.peek _ _ = some (0x78 : Byte); decide +kernel
  | 2, _ => show State.peek _ _ = some (0x06 : Byte); decide +kernel

theorem witness_IllegalOpcodesStop :
    let s := machine [0xFF] [] regs0
    s.AtBoundary ∧ s.PpuSafe ∧ s.NoInterrupt ∧ s.CodeAt [0xFF] ∧ opcodeRow 0xFF 0 0 = none := by
  refine ⟨⟨rfl, rfl, rfl, rfl, rfl⟩, ⟨by decide, rfl, .inl rfl⟩, ⟨rfl, rfl, .inl rfl⟩, ?_, rfl⟩
  intro k h
  match k, h with
  | 0, _ => show State.peek _ _ = some (0xFF : Byte); decide +kernel

theorem witness_FaultIsFinal : ({ ready with fault := some .unmodelled8x16 } : State).fault = some .unmodelled8x16 := rfl

theorem witness_StepIsTicks : ready.AtBoundary := ready_boundary

theorem witness_EveryCycleExists :
    ready.cpu.CycleOk ∧ ready.fault = none ∧ ({ ready.cpu with t := 2 } : Cpu).CycleOk ∧
      ({ ready.cpu with t := 3, ir := 0xA5 } : Cpu).CycleOk :=
  ⟨.inl rfl, rfl, .inr (.inl rfl), .inr (.inr ⟨_, rfl, by decide, by decide⟩)⟩

theorem witness_FirstStepIsTheResetSequence :
    0x2000 ≤ Cartridge.blank.chrRomLen ∧
      (State.powerOn Cartridge.blank PowerOn.default AudioParams.default).readable PowerOn.default.pc = true := ⟨by decide, rfl⟩

theorem witness_InterruptSequence_nmi :
    let s : State := { ready with cpu := { ready.cpu with pendingNmi := true } }
    s.AtBoundary ∧ s.PpuSafe ∧ MemoriesOk s ∧ s.readable s.cpu.regs.pc = true ∧ s.cpu.pendingReset = false ∧
      s.cpu.pendingNmi = true :=
  ⟨⟨rfl, rfl, rfl, rfl, rfl⟩, ready_safe, { ready_memories with }, rfl, rfl, rfl⟩

theorem witness_InterruptSequence_irq :
    let s : State := { ready with cpu := { ready.cpu with
      irqLine := true, regs := { ready.cpu.regs with p := { flags0 with i := false } } } }
    s.AtBoundary ∧ s.PpuSafe ∧ MemoriesOk s ∧ s.readable s.cpu.regs.pc = true ∧ s.cpu.pendingReset = false ∧
      s.cpu.pendingNmi = false ∧ s.cpu.irqLine = true ∧ s.cpu.regs.p.i = false :=
  ⟨⟨rfl, rfl, rfl, rfl, rfl⟩, ready_safe, { ready_memories with }, rfl, rfl, rfl, rfl, rfl⟩

theorem witness_ResetLineAbandonsTheInstruction :
    let s := (ready.driveReset true).withCpu { (ready.driveReset true).cpu with t := 4 }
    s.fault = none ∧ s.dma.active = false ∧ s.PpuSafe ∧ s.cpu.resetLine = true ∧
      s.readable s.cpu.regs.pc = true := ⟨rfl, rfl, ready_safe, rfl, rfl⟩

theorem witness_ReadUseInstructions :
    formOf (.ldaAbs 0x2002) = .readUse .lda (.abs 0x2002) ∧ ready.CanRun ∧
      (Operand.abs 0x2002).address ready = some 0x2002 ∧ ready.readable 0x2002 = true ∧
      ∀ d, (Operand.abs 0x2002).dummyRead true ready = some d → ready.readable d = true :=
  ⟨rfl, ready_canRun, rfl, rfl, noDummy rfl⟩

/-- A page is crossed: the dummy read is at 0x0200, the operand at 0x0300. -/
theorem witness_ReadUseInstructions_cross :
    formOf (.cmpIzy 0x20) = .readUse .cmp (.izy 0x20) ∧ ready.CanRun ∧
      (Operand.izy 0x20).address ready = some 0x0300 ∧ ready.readable 0x0300 = true ∧
      ∀ d, (Operand.izy 0x20).dummyRead true ready = some d → ready.readable d = true :=
  ⟨rfl, ready_canRun, by decide +kernel, rfl, ramDummy (d' := 0x0200) (by decide +kernel) rfl⟩

theorem witness_ReadUseImmediate : formOf (.cpyImm 0xFF) = .readUse .cpy (.imm 0xFF) := rfl

theorem ready_operates_zp : ready.Operates (.zp 0x10) 0x42 :=
  ⟨⟨0x0010, rfl, by decide +kernel⟩, noDummy rfl⟩
theorem ready_operates_abx : ready.Operates (.abx 0x0010) 0x42 :=
  ⟨⟨0x0010, by decide +kernel, by decide +kernel⟩, noDummy (by decide +kernel)⟩

theorem witness_AddWithCarry :
    formOf (.adcAbx 0x0010) = .readUse .adc (.abx 0x0010) ∧ ready.CanRun ∧ ready.Operates (.abx 0x0010) 0x42 :=
  ⟨rfl, ready_canRun, ready_operates_abx⟩

theorem witness_SubtractWithCarry :
    formOf (.sbcZp 0x10) = .readUse .sbc (.zp 0x10) ∧ ready.CanRun ∧ ready.Operates (.zp 0x10) 0x42 :=
  ⟨rfl, ready_canRun, ready_operates_zp⟩

theorem witness_Compares :
    (formOf (.cmpZp 0x10) = .readUse .cmp (.zp 0x10) ∧ formOf (.cpxZp 0x10) = .readUse .cpx (.zp 0x10) ∧
      formOf (.cpyImm 0x80) = .readUse .cpy (.imm 0x80)) ∧ ready.CanRun ∧ ready.Operates (.zp 0x10) 0x42 ∧
      ready.Operates (.imm 0x80) 0x80 := ⟨⟨rfl, rfl, rfl⟩, ready_canRun, ready_operates_zp, rfl⟩

theorem witness_BitTest :
    formOf (.bitZp 0x10) = .readUse .bit (.zp 0x10) ∧ ready.CanRun ∧ ready.Operates (.zp 0x10) 0x42 :=
  ⟨rfl, ready_canRun, ready_operates_zp⟩

theorem witness_LogicOperationsAndLoads :
    (formOf (.andZp 0x10) = .readUse .and (.zp 0x10) ∧ formOf (.eorZp 0x10) = .readUse .eor (.zp 0x10) ∧
      formOf (.oraZp 0x10) = .readUse .ora (.zp 0x10)) ∧
      (formOf (.ldaZp 0x10) = .readUse .lda (.zp 0x10) ∧ formOf (.ldxZp 0x10) = .readUse .ldx (.zp 0x10) ∧
      formOf (.ldyZp 0x10) = .readUse .ldy (.zp 0x10)) ∧ ready.CanRun ∧ ready.Operates (.zp 0x10) 0x42 :=
  ⟨⟨rfl, rfl, rfl⟩, ⟨rfl, rfl, rfl⟩, ready_canRun, ready_operates_zp⟩

/-- Each device, PPU registers at a mirror and at their bounds, the unreadable addresses at both ends. -/
theorem witness_LoadsFromDevices :
    formOf (.ldaAbs 0x4015) = .readUse .lda (.abs 0x4015) ∧ formOf (.cmpAbs 0x4016) = .readUse .cmp (.abs 0x4016) ∧
      formOf (.adcAbs 0x4017) = .readUse .adc (.abs 0x4017) ∧
      (formOf (.bitAbs 0x2002) = .readUse .bit (.abs 0x2002) ∧ cpuTarget 0x2002 = .ppu 2) ∧
      (formOf (.ldxAbs 0x3FFC) = .readUse .ldx (.abs 0x3FFC) ∧ cpuTarget 0x3FFC = .ppu 4) ∧
      (formOf (.ldyAbs 0x3FFF) = .readUse .ldy (.abs 0x3FFF) ∧ cpuTarget 0x3FFF = .ppu 7) ∧
      formOf (.ldaAbs 0x4000) = .readUse .lda (.abs 0x4000) ∧ formOf (.ldaAbs 0x4014) = .readUse .lda (.abs 0x4014) ∧
      ready.CanRun ∧ ready.ppu.renderingEnabled = false :=
  ⟨rfl, rfl, rfl, ⟨rfl, rfl⟩, ⟨rfl, rfl⟩, ⟨rfl, rfl⟩, rfl, rfl, ready_canRun, rfl⟩

/-- The write-only registers, at the first and the last mirror. -/
theorem witness_LoadsFromDevices_writeOnly :
    formOf (.ldaAbs 0x2000) = .readUse .lda (.abs 0x2000) ∧ formOf (.ldxAbs 0x3FFE) = .readUse .ldx (.abs 0x3FFE) ∧
      ready.CanRun ∧
      ∀ k, k ∈ ([0, 1, 3, 5, 6] : List (BitVec 3)) →
        cpuTarget (0x2000 + k.setWidth 16) = .ppu k ∧ cpuTarget (0x3FF8 + k.setWidth 16) = .ppu k :=
  ⟨rfl, rfl, ready_canRun, by decide⟩

/-- To RAM at its last mirror, across a page. -/
theorem witness_StoreInstructions :
    formOf (.staAby 0x1FFE) = .store .a (.aby 0x1FFE) ∧ ready.CanRun ∧ MemoriesOk ready ∧
      (Operand.aby 0x1FFE).address ready = some 0x1FFF ∧ ready.writable 0x1FFF = true ∧
      (∀ d, (Operand.aby 0x1FFE).dummyRead false ready = some d → ready.readable d = true) ∧
      (ready.peek 0x1FFF).isSome = true ∧ ∀ k, cpuTarget 0x1FFF ≠ .ppu k :=
  ⟨rfl, ready_canRun, ready_memories, by decide +kernel, rfl, ramDummy (d' := 0x1FFF) (by decide +kernel) rfl, rfl,
    fun k h => by cases h⟩

/-- To a device: OAMADDR. -/
theorem witness_StoreInstructions_device :
    formOf (.stxAbs 0x2003) = .store .x (.abs 0x2003) ∧ ready.CanRun ∧ MemoriesOk ready ∧
      (Operand.abs 0x2003).address ready = some 0x2003 ∧ ready.writable 0x2003 = true ∧
      ∀ d, (Operand.abs 0x2003).dummyRead false ready = some d → ready.readable d = true :=
  ⟨rfl, ready_canRun, ready_memories, rfl, rfl, noDummy rfl⟩

theorem witness_StoresToDevices :
    (formOf (.styAbs 0x3FFC) = .store .y (.abs 0x3FFC) ∧ cpuTarget 0x3FFC = .ppu 4) ∧
      (formOf (.staAbs 0x2000) = .store .a (.abs 0x2000) ∧ cpuTarget 0x2000 = .ppu 0) ∧
      (formOf (.stxAbs 0x3FF9) = .store .x (.abs 0x3FF9) ∧ cpuTarget 0x3FF9 = .ppu 1) ∧
      formOf (.staAbs 0x4014) = .store .a (.abs 0x4014) ∧ ready.CanRun ∧ MemoriesOk ready ∧
      ready.ppu.renderingEnabled = false ∧ ready.ppu.ctrl.spriteHeight16 = false :=
  ⟨⟨rfl, rfl⟩, ⟨rfl, rfl⟩, ⟨rfl, rfl⟩, rfl, ready_canRun, ready_memories, rfl, rfl⟩

/-- The APU file at its ends, and the controller port. -/
theorem witness_StoresToDevices_apu :
    formOf (.staAbs 0x4000) = .store .a (.abs 0x4000) ∧ formOf (.staAbs 0x4013) = .store .a (.abs 0x4013) ∧
      formOf (.stxAbs 0x4015) = .store .x (.abs 0x4015) ∧ formOf (.styAbs 0x4017) = .store .y (.abs 0x4017) ∧
      formOf (.staAbs 0x4016) = .store .a (.abs 0x4016) ∧ ready.CanRun ∧ MemoriesOk ready :=
  ⟨rfl, rfl, rfl, rfl, rfl, ready_canRun, ready_memories⟩

/-- `ready` with `v` at an address and the write toggle as given. -/
def pointing (v : BitVec 15) (w : Bool) : State := { ready with ppu := { ready.ppu with v := v, w := w } }

/-- The other PPU registers, both states of the toggle, and PPUDATA at the bounds of its ranges. -/
theorem witness_StoresToDevices_ppu :
    (formOf (.staAbs 0x2002) = .store .a (.abs 0x2002) ∧ cpuTarget 0x2002 = .ppu 2) ∧
      (formOf (.stxAbs 0x3FFB) = .store .x (.abs 0x3FFB) ∧ cpuTarget 0x3FFB = .ppu 3) ∧
      (formOf (.styAbs 0x2005) = .store .y (.abs 0x2005) ∧ cpuTarget 0x2005 = .ppu 5) ∧
      (formOf (.staAbs 0x3FFE) = .store .a (.abs 0x3FFE) ∧ cpuTarget 0x3FFE = .ppu 6) ∧
      (formOf (.staAbs 0x2007) = .store .a (.abs 0x2007) ∧ cpuTarget 0x2007 = .ppu 7) ∧
      (∀ v w, (pointing v w).CanRun ∧ MemoriesOk (pointing v w) ∧ (pointing v w).ppu.w = w ∧
        (pointing v w).ppu.renderingEnabled = false) ∧
      (pointing 0x1FFF false).ppu.dataAddr.toNat < 0x2000 ∧ 0x2000 ≤ (pointing 0x2000 true).ppu.dataAddr.toNat ∧
      (pointing 0x7EFF false).ppu.dataAddr.toNat < 0x3F00 ∧ 0x3F00 ≤ (pointing 0x3F00 true).ppu.dataAddr.toNat :=
  ⟨⟨rfl, rfl⟩, ⟨rfl, rfl⟩, ⟨rfl, rfl⟩, ⟨rfl, rfl⟩, ⟨rfl, rfl⟩,
    fun _ _ => ⟨ready_canRun, { ready_memories with }, rfl, rfl⟩, by decide, by decide, by decide, by decide⟩

theorem witness_ReadModifyWriteMemory :
    formOf (.rorZp 0x10) = .rmw .ror (.zp 0x10) ∧ ready.CanRun ∧ MemoriesOk ready ∧
      (Operand.zp 0x10).address ready = some 0x0010 ∧ ready.readable 0x0010 = true ∧ ready.writable 0x0010 = true ∧
      (∀ d, (Operand.zp 0x10).dummyRead false ready = some d → ready.readable d = true) ∧
      ready.peek 0x0010 = some 0x42 :=
  ⟨rfl, ready_canRun, ready_memories, rfl, rfl, rfl, noDummy rfl, by decide +kernel⟩

/-- On OAMDATA. -/
theorem witness_ReadModifyWriteMemory_oamData :
    formOf (.incAbs 0x2004) = .rmw .inc (.abs 0x2004) ∧ ready.CanRun ∧ MemoriesOk ready ∧
      (Operand.abs 0x2004).address ready = some 0x2004 ∧ ready.readable 0x2004 = true ∧ ready.writable 0x2004 = true ∧
      (∀ d, (Operand.abs 0x2004).dummyRead false ready = some d → ready.readable d = true) ∧ cpuTarget 0x2004 = .ppu 4 :=
  ⟨rfl, ready_canRun, ready_memories, rfl, rfl, rfl, noDummy rfl, rfl⟩

theorem witness_ImpossibleAccessesStop :
    ready.CanRun ∧ (Operand.abs 0x4018).address ready = some 0x4018 ∧ (Operand.abs 0x401F).address ready = some 0x401F ∧
      (Operand.abs 0x4020).address ready = some 0x4020 ∧ (Operand.abs 0x7FFF).address ready = some 0x7FFF ∧
      (Operand.abs 0x8000).address ready = some 0x8000 ∧ ready.cart.prgRamLen = 0 ∧
      formOf (.bitAbs 0x4018) = .readUse .bit (.abs 0x4018) ∧ formOf (.staAbs 0x401F) = .store .a (.abs 0x401F) ∧
      formOf (.styAbs 0x7FFF) = .store .y (.abs 0x7FFF) ∧ formOf (.incAbs 0x8000) = .rmw .inc (.abs 0x8000) ∧
      formOf (.ldaAbs 0x4020) = .readUse .lda (.abs 0x4020) ∧ formOf (.cpxAbs 0x7FFF) = .readUse .cpx (.abs 0x7FFF) ∧
      formOf (.stxAbs 0x8000) = .store .x (.abs 0x8000) ∧ formOf (.aslAbs 0x401F) = .rmw .asl (.abs 0x401F) ∧
      formOf (.decAbs 0x4020) = .rmw .dec (.abs 0x4020) ∧ formOf (.rolAbs 0x7FFF) = .rmw .rol (.abs 0x7FFF) ∧
      ∀ (e : Bool) (a d : Word), (Operand.abs a).dummyRead e ready = some d → ready.readable d = true :=
  ⟨ready_canRun, rfl, rfl, rfl, rfl, rfl, rfl, rfl, rfl, rfl, rfl, rfl, rfl, rfl, rfl, rfl, rfl, fun _ _ => noDummy rfl⟩

theorem witness_AccumulatorForms :
    formOf .rolAcc = .rmwAcc .rol ∧ ready.CanRun ∧ ready.readable ready.cpu.regs.pc = true :=
  ⟨rfl, ready_canRun, rfl⟩

theorem witness_SingleByteInstructions :
    formOf .txs = .single .txs ∧ ready.CanRun ∧ ready.readable ready.cpu.regs.pc = true := ⟨rfl, ready_canRun, rfl⟩

theorem witness_FlagsCountsAndTransfers : ready.CanRun ∧ ready.readable ready.cpu.regs.pc = true := ⟨ready_canRun, rfl⟩

/-- Not taken (BEQ), taken within the page (BNE +127 at 0x8000), taken across (BNE −128). -/
theorem witness_BranchInstructions :
    formOf (.beq 5) = .branch .eq 5 ∧ ready.cpu.regs.p.z = false ∧
      formOf (.bne 127) = .branch .ne 127 ∧ (Instr.bne 127).wellFormed = true ∧
      formOf (.bne (-128)) = .branch .ne (-128) ∧ (Instr.bne (-128)).wellFormed = true ∧ ready.CanRun ∧
      ready.readable ready.cpu.regs.pc = true ∧
      ready.readable (joinBytes (hiByte ready.cpu.regs.pc) (loByte (ready.cpu.regs.pc + BitVec.ofInt 16 127))) = true ∧
      ready.readable (joinBytes (hiByte ready.cpu.regs.pc) (loByte (ready.cpu.regs.pc + BitVec.ofInt 16 (-128)))) = true :=
  ⟨rfl, rfl, rfl, rfl, rfl, rfl, ready_canRun, rfl, by decide +kernel, by decide +kernel⟩

/-- S = 0xFF: the byte pulled is at 0x0100. -/
theorem witness_PushesAndPulls :
    ready.CanRun ∧ MemoriesOk ready ∧ ready.readable ready.cpu.regs.pc = true ∧ ready.cpu.regs.a = 0 ∧
      ((0x34 : Byte).getLsbD 7 = ready.cpu.regs.p.n ∧ (0x34 : Byte).getLsbD 6 = ready.cpu.regs.p.v ∧
        (0x34 : Byte).getLsbD 5 = true ∧ (0x34 : Byte).getLsbD 4 = true ∧ (0x34 : Byte).getLsbD 3 = ready.cpu.regs.p.d ∧
        (0x34 : Byte).getLsbD 2 = ready.cpu.regs.p.i ∧ (0x34 : Byte).getLsbD 1 = ready.cpu.regs.p.z ∧
        (0x34 : Byte).getLsbD 0 = ready.cpu.regs.p.c) ∧
      ready.peek (stackAddr (ready.cpu.regs.s + 1)) = some 0 :=
  ⟨ready_canRun, ready_memories, rfl, rfl, by decide +kernel, by decide +kernel⟩

theorem witness_Jumps :
    ready.CanRun ∧ ready.peek 0x0020 = some 0xFF ∧
      ready.peek (joinBytes (hiByte 0x0020) (loByte 0x0020 + 1)) = some 0x02 ∧
      ready.peek 0x02FF = some 0 ∧ ready.peek (joinBytes (hiByte 0x02FF) (loByte 0x02FF + 1)) = some 0 :=
  ⟨ready_canRun, by decide +kernel, by decide +kernel, by decide +kernel, by decide +kernel⟩

theorem witness_SubroutineCallAndReturn :
    ready.CanRun ∧ MemoriesOk ready ∧ ready.readable ready.cpu.regs.pc = true ∧
      ready.peek (stackAddr (ready.cpu.regs.s + 1)) = some 0 ∧ ready.peek (stackAddr (ready.cpu.regs.s + 2)) = some 0 ∧
      ready.readable (joinBytes 0 0) = true := ⟨ready_canRun, ready_memories, rfl, by decide +kernel, by decide +kernel, rfl⟩

theorem witness_BreakInstruction :
    ready.CanRun ∧ MemoriesOk ready ∧ ready.readable ready.cpu.regs.pc = true := ⟨ready_canRun, ready_memories, rfl⟩

theorem witness_ReturnFromInterrupt :
    ready.CanRun ∧ ready.readable ready.cpu.regs.pc = true ∧ ready.peek (stackAddr (ready.cpu.regs.s + 1)) = some 0 ∧
      ready.peek (stackAddr (ready.cpu.regs.s + 2)) = some 0 ∧ ready.peek (stackAddr (ready.cpu.regs.s + 3)) = some 0 :=
  ⟨ready_canRun, rfl, by decide +kernel, by decide +kernel, by decide +kernel⟩

theorem witness_ReturnsUndoTheirCalls :
    ready.CanRun ∧ MemoriesOk ready ∧ ready.readable ready.cpu.regs.pc = true ∧
      exec (.jsr 0x0678) ready = .next (stateOf ready (exec (.jsr 0x0678) ready)) ∧
      (stateOf ready (exec (.jsr 0x0678) ready)).readable (stateOf ready (exec (.jsr 0x0678) ready)).cpu.regs.pc = true ∧
      exec .brk ready = .next (stateOf ready (exec .brk ready)) ∧
      (stateOf ready (exec .brk ready)).readable (stateOf ready (exec .brk ready)).cpu.regs.pc = true :=
  ⟨ready_canRun, ready_memories, rfl, next_stateOf (by decide +kernel), by decide +kernel,
    next_stateOf (by decide +kernel), by decide +kernel⟩

theorem witness_StepKeepsTheInvariant :
    ready.Inv ∧ step ready = .next (stateOf ready (step ready)) := ⟨⟨ready_memories, ready_counters⟩, next_stateOf (by decide +kernel)⟩

/-- For another output rate, too. -/
theorem witness_ResetHasTheInvariant :
    let audio : AudioParams := ⟨8000, AudioParams.default.duty⟩
    State.construct Cartridge.blank PowerOn.default audio = .ok (State.powerOn Cartridge.blank PowerOn.default audio) ∧
      MemoriesOk (State.powerOn Cartridge.blank PowerOn.default audio) :=
  ⟨rfl, by constructor <;> decide +kernel⟩

theorem witness_CartridgeNeverChanges : step ready = .next (stateOf ready (step ready)) :=
  next_stateOf (by decide +kernel)

/-- The state a tick gives, or the state it started from. -/
def tickOf (s : State) : State := valueOf s s.tick

theorem witness_TickLatchesTheInterrupts :
    ready.tick = .ok (tickOf ready) ∧ (tickOf ready).tick = .ok (tickOf (tickOf ready)) ∧
      (tickOf ready).cpu.t = 2 ∧ (tickOf ready).cpu.resetLine = false :=
  ⟨ok_valueOf (by decide +kernel), ok_valueOf (by decide +kernel), by decide +kernel, by decide +kernel⟩

/-- T1 ticks: one that takes a pending NMI, one with a reset pending that keeps it. -/
theorem witness_TickLatchesTheInterrupts_taken :
    let s := ready.withCpu { ready.cpu with pendingNmi := true }
    let r := ready.withCpu { ready.cpu with pendingNmi := true, pendingReset := true }
    s.cpu.t = 1 ∧ s.tick = .ok (tickOf s) ∧ (tickOf s).cpu.pendingNmi = false ∧ r.tick = .ok (tickOf r) ∧
      (tickOf r).cpu.pendingNmi = true :=
  ⟨rfl, ok_valueOf (by decide +kernel), by decide +kernel, ok_valueOf (by decide +kernel), by decide +kernel⟩

theorem witness_TickLatchesTheInterrupts_dma :
    (ready.dmaStart 2).dma.active = true ∧ (ready.dmaStart 2).tick = .ok (tickOf (ready.dmaStart 2)) :=
  ⟨rfl, ok_valueOf (by decide +kernel)⟩

theorem witness_TickMovesTheRaster : CountersOk ready ∧ ready.tick = .ok (tickOf ready) :=
  ⟨ready_counters, ok_valueOf (by decide +kernel)⟩

theorem witness_OamDmaCopiesThePage :
    let s := ready.withCpu { ready.cpu with ab := 0x4014 }
    s.PpuSafe ∧ MemoriesOk s ∧ s.cpu.ab = 0x4014 ∧ ∀ k : Byte, (s.peek (joinBytes 0x02 k)).isSome = true := by
  refine ⟨ready_safe, { ready_memories with }, rfl, fun k => ?_⟩
  have h : cpuTarget (joinBytes 0x02 k) = .ram (512 + k.toNat) := by
    have hk := k.isLt
    unfold cpuTarget
    simp only [joinBytes_toNat]
    rw [if_pos (by show 2 * 256 + k.toNat < 0x2000; omega)]
    show Target.ram ((2 * 256 + k.toNat) % 0x0800) = _
    rw [Nat.mod_eq_of_lt (by omega)]
  unfold State.peek
  rw [h]; rfl

theorem witness_MemoryIsMirrored :
    MemoriesOk ready ∧ (0x0010 : Word).toNat < 0x2000 ∧ (0x1810 : Word).toNat < 0x2000 ∧
      (0x1810 : Word).toNat % 0x0800 = (0x0010 : Word).toNat % 0x0800 ∧
      ({ ready with cart := { ready.cart with prgRomLen := 0x4000 } } : State).cart.prgRomLen = 0x4000 :=
  ⟨ready_memories, by decide, by decide, by decide, rfl⟩

theorem witness_OamDataSequence : ready.ppu.oam.wf = true ∧ (List.replicate 256 (1 : Byte)).length ≤ 256 := by
  decide +kernel

theorem witness_TwoWriteRegisters : (pointing 0 false).ppu.w = false ∧ (pointing 0 true).ppu.w = true := ⟨rfl, rfl⟩

/-- A PPUDATA access waiting, the address given. -/
def dataAccess (rw : Dir) (v : BitVec 15) : State :=
  { ready with ppu := { ready.ppu with access := true, cpuRw := rw, cpuReg := 7, v := v } }

theorem witness_PpuDataReadIsBuffered :
    let s := dataAccess .read 0x2005
    s.ppu.renderingEnabled = false ∧ s.ppu.access = true ∧ s.ppu.cpuRw = .read ∧ s.ppu.cpuReg = 7 ∧
      s.ppu.dataAddr.toNat < 0x3F00 ∧ s.ppuBusRead s.ppu.dataAddr = .ok 0 :=
  ⟨rfl, rfl, rfl, rfl, by decide +kernel, rfl⟩

/-- The three ranges at their bounds: 0x1FFF, 0x2000 and 0x3EFF, 0x3F00. -/
theorem witness_PpuDataWrite :
    (dataAccess .write 0x1FFF).ppu.renderingEnabled = false ∧ (dataAccess .write 0x1FFF).ppu.cpuRw = .write ∧
      (dataAccess .write 0x1FFF).ppu.dataAddr.toNat < 0x2000 ∧ 0x2000 ≤ (dataAccess .write 0x2000).ppu.dataAddr.toNat ∧
      (dataAccess .write 0x3EFF).ppu.dataAddr.toNat < 0x3F00 ∧
      0x3F00 ≤ (dataAccess .write 0x3F00).ppu.dataAddr.toNat := by decide +kernel

/-- The PPU after a dot, or before it. -/
def dotOf (p : Ppu) : Ppu := valueOf p p.step

theorem witness_VblankFlag :
    let p : Ppu := { ready.ppu with access := true, cpuRw := .read, cpuReg := 2, spriteOverflow := true }
    let q : Ppu := { ready.ppu with scanline := 241, dot := 1 }
    let r : Ppu := { ready.ppu with scanline := 261, dot := 1 }
    p.step = .ok (dotOf p) ∧ ¬(p.scanline = 261 ∧ p.dot = 1) ∧ q.step = .ok (dotOf q) ∧ r.step = .ok (dotOf r) ∧
      ready.ppu.step = .ok (dotOf ready.ppu) :=
  ⟨ok_valueOf (by decide +kernel), by decide +kernel, ok_valueOf (by decide +kernel), ok_valueOf (by decide +kernel),
    ok_valueOf (by decide +kernel)⟩

/-- A PPU with rendering on, at a line and dot, with one sprite found: y 0, tile 1, both flips, x 8; the slots empty. -/
def drawing (line dot : Nat) : Ppu :=
  { ready.ppu with
    scanline := line, dot := dot, mask := { ready.ppu.mask with showBackground := true, showSprites := true }
    secCount := 1, secOam := [(0, 0), (1, 1), (2, 0xC0), (3, 8)].foldl (fun m c => m.write c.1 c.2) [] }

/-- Every dot at which the address moves, at the bounds of its range. -/
theorem witness_ScrollCountersWrap :
    (coarseX 0x0C1E ≠ 31 ∧ fineY 0x6C05 ≠ 7 ∧ fineY 0x0C05 = 0 ∧ coarseY 0x0C05 = 0) ∧
      (List.all [(0, 8), (239, 256), (0, 257), (261, 280), (261, 304), (261, 328), (0, 336), (240, 8)]
        fun c => isOk (drawing c.1 c.2).step && !(drawing c.1 c.2).access && (drawing c.1 c.2).renderingEnabled) = true := by
  decide +kernel

/-- A clear on a visible line and on line 261, a scan on the first and the last visible line, and dots that are neither. -/
theorem witness_SpritesAreEvaluated :
    List.all [drawing 0 1, drawing 261 1, { drawing 0 65 with secCount := 0 }, { drawing 239 65 with secCount := 0 },
        drawing 240 1, drawing 261 65, drawing 239 64]
      (fun p => isOk p.step && !p.access && p.renderingEnabled && p.secOam.wf) = true ∧
      (drawing 261 1).dot = 1 ∧ (drawing 261 1).scanline = 261 ∧ (drawing 239 65).dot = 65 ∧
      (drawing 239 65).scanline ≤ 239 := by decide +kernel

/-- Slot 0 with a sprite and slot 7 without one, on a visible line and on line 261. -/
theorem witness_SpritesAreFetchedAndShifted :
    List.all [(0, 257, 0), (0, 313, 7), (261, 257, 0)] (fun c =>
      let s : State := { ready with ppu := drawing c.1 c.2.1 }
      !s.ppu.access && s.ppu.renderingEnabled && !s.ppu.ctrl.spriteHeight16 &&
        (decide (s.ppu.scanline ≤ 239) || decide (s.ppu.scanline = 261)) &&
        decide (s.ppu.dot = 257 + 8 * c.2.2) && decide (s.ppu.slots.length = 8) &&
        decide (c.2.2 < s.ppu.secCount ∨ s.ppu.secCount ≤ c.2.2) && isOk (State.dots 8 s)) = true ∧
      ready.ppuBusRead (BitVec.ofNat 14 (4096 * 0 + 16 * 1 + (7 - (0 + 1 + 256 - 0) % 8))) = .ok 0 ∧
      (drawing 239 256).step = .ok (dotOf (drawing 239 256)) ∧
      (drawing 239 256).slots[7]? = some ⟨⟨0, 0⟩, 0, 0⟩ :=
  ⟨by decide +kernel, by decide +kernel, ok_valueOf (by decide +kernel), by decide +kernel⟩

/-- The first and last tiles of a line, and the two fetched ahead; a reload dot and one that is none. -/
theorem witness_BackgroundIsFetchedAndShifted :
    List.all [(0, 1), (239, 249), (261, 321), (0, 329)] (fun c =>
      let s : State := { ready with ppu := drawing c.1 c.2 }
      !s.ppu.access && s.ppu.renderingEnabled && decide (s.ppu.dot % 8 = 1) &&
        isOk (s.ppuBusRead (BitVec.ofNat 14 (0x2000 + s.ppu.v.toNat % 4096))) && isOk (s.ppuBusRead 0x23C0) &&
        isOk (s.ppuBusRead 0) && isOk (s.ppuBusRead 8) && isOk (State.dots 8 s)) = true ∧
      (List.all [(0, 1), (0, 9), (239, 257), (261, 329), (0, 336)] fun c => isOk (drawing c.1 c.2).step) = true := by
  decide +kernel

/-- The first and the last pixel, a dot past them, and rendering off. -/
theorem witness_PixelIsComposed :
    List.all [drawing 0 1, drawing 239 256, drawing 239 257, ready.ppu]
      (fun p => isOk p.step && !p.access && p.frameBuffer.wf) = true := by decide +kernel

theorem witness_FrameInterruptTiming :
    ready.apu.mode = .fourStep ∧ ready.apu.irqInhibit = false ∧ ready.apu.count = 0 ∧ ready.apu.frameIrq = false :=
  ⟨rfl, rfl, rfl, rfl⟩

/-- On a half-frame pulse, at the last count, and at the wrap. -/
theorem witness_ChannelUnitsStep :
    let a := { ready.apu with count := 14912 }
    let b := { ready.apu with count := 29828 }
    let c := { ready.apu with count := 29829 }
    a.count + 1 ≤ a.mode.wrap ∧ b.count + 1 ≤ b.mode.wrap ∧ c.count + 1 ≤ c.mode.wrap := by decide

/-- The absent channels' registers at their bounds, and both states of the enable bits. -/
theorem witness_ApuRegisterWrites :
    (0x0C ≤ 0x0C ∧ 0x0C ≤ 0x13 ∧ 0x13 ≤ 0x13) ∧
      (ready.apu.pulse1.enabled = false ∧ ready.apu.pulse2.enabled = false ∧ ready.apu.triangle.enabled = false) ∧
      ((ready.apu.write 0x15 0x07).pulse1.enabled = true ∧ (ready.apu.write 0x15 0x07).pulse2.enabled = true ∧
        (ready.apu.write 0x15 0x07).triangle.enabled = true) := by
  decide +kernel

theorem witness_EnvelopeDecays : ({ ready.apu.pulse1.env with start := true } : Envelope).start = true ∧ 15 ≤ 15 :=
  ⟨rfl, Nat.le_refl _⟩

theorem witness_MixerLevelsAndSampleCounts :
    (15 ≤ 15 ∧ 0 ≤ 15) ∧ 1 ≤ 20 ∧ ready.apu.sample.cycles = 0 ∧ ready.apu.sample.decimate = false ∧
      ready.apu.sample.writePos < Config.ringLen ∧ (List.replicate 80 (0 : Rat)).length = 2 * 20 * 2 ∧
      (List.replicate 39 (0 : Rat)).length < 2 * 20 :=
  ⟨by decide, by decide, rfl, rfl, Nat.succ_pos _, by decide, by decide⟩

theorem witness_ControllerShiftsItsBits :
    let s : State := { ready with ctl := { ready.ctl with latch := true, answers := [(0x81, 0x7E)] } }
    s.ctl.latch = true ∧ s.ctl.answers = (0x81, 0x7E) :: [] ∧ (0x02 : Byte).getLsbD 0 = false := ⟨rfl, rfl, rfl⟩

theorem witness_ConstructChecksTheSizes :
    let c := Cartridge.blank
    let d := { Cartridge.blank with prgRomLen := 1000 }
    (c.prgRomLen ≠ 0 ∧ c.prgRomLen % 16384 = 0 ∧ c.chrRomLen % 8192 = 0 ∧ (c.prgRamLen = 0 ∨ c.prgRamLen = 8192)) ∧
      ¬(d.prgRomLen ≠ 0 ∧ d.prgRomLen % 16384 = 0 ∧ d.chrRomLen % 8192 = 0 ∧
        (d.prgRamLen = 0 ∨ d.prgRamLen = 8192)) := by decide

/-! ## The host's two definitions -/

/-- With `withFetchWord`, the very next step runs the word's instruction, from reset. -/
theorem test_withFetchWord :
    (match step (State.reset.withFetchWord 16 0x42A9) with
      | .next t => decide (t.cpu.regs.a = 0x42 ∧ t.cpu.regs.pc = 2)
      | _ => false) = true := by decide +kernel

end Sys2Proof.Tests
end

section
/-! SUPPORT. A relation between states that the parts of a step keep is kept by the whole step: one induction over the
rows and the DMA ticks, for every invariant and every frame of `step` (rules R180, R184, R490, R495). -/

namespace Sys2Proof.Machine

/-! ## Answers -/

theorem Run.result_eq_next {r : Run} {t : State} (h : r.result = .next t) : r = .ok t := by
  cases r with
  | ok s => cases h; rfl
  | error f => cases h

/-- A meaning runs rows, or it is at its boundary at once. -/
theorem Form.run_cases (f : Form) (s : State) :
    (∃ c rows, f.run s = ((s.withCpu c).runRows rows).result) ∨ ∃ c, f.run s = .next (s.withCpu c) := by
  cases f with
  | readUse op o =>
    cases o with
    | imm b => exact .inr ⟨_, rfl⟩
    | _ => exact .inl ⟨_, _, rfl⟩
  | branch k off =>
    simp only [Form.run, Machine.branch]
    split
    · exact .inl ⟨_, _, rfl⟩
    · exact .inr ⟨_, rfl⟩
  | jmp a => exact .inr ⟨_, rfl⟩
  | _ => exact .inl ⟨_, _, rfl⟩

/-- The fetch of an instruction is none, one or two fetch cycles after the opcode is latched. -/
theorem State.fetchInstr_cases {s t : State} {i : Instr} (h : s.fetchInstr = .ok (i, t)) :
    t = s.latchOpcode ∨ s.latchOpcode.cycle rowFetch1 = .ok t ∨
      ∃ u, s.latchOpcode.cycle rowFetch1 = .ok u ∧ u.cycle rowFetch2 = .ok t := by
  cases hop : opcodeRow s.cpu.db 0 0 with
  | none => rw [State.fetchInstr_illegal hop] at h; cases h
  | some j =>
    obtain hc | hc | hc := fetchCount_le j
    · rw [State.fetchInstr_zero hop hc] at h
      cases h; exact .inl rfl
    · rw [State.fetchInstr_one hop hc] at h
      split at h
      · cases h
      · next u hu => cases h; exact .inr (.inl hu)
    · rw [State.fetchInstr_two hop hc] at h
      split at h
      · cases h
      · next u hu =>
        split at h
        · cases h
        · next v hv => cases h; exact .inr (.inr ⟨u, hu, hv⟩)

/-- After the T1 tick the instruction fetched runs, or the sequence of the interrupt found. -/
theorem State.afterPoll_cases {s t : State} (h : s.afterPoll = .next t) :
    (∃ i u, s.fetchInstr = .ok (i, u) ∧ exec i u = .next t) ∨
      ∃ k, (s.withCpu { s.cpu with ir := 0 }).takeInterrupt k = .ok t := by
  unfold State.afterPoll at h
  split at h
  · split at h
    · cases h
    · next i u hf => exact .inl ⟨i, u, hf, h⟩
  · exact .inr ⟨_, Run.result_eq_next h⟩

/-- An instruction step that completes: the T1 tick, what the poll found, and the DMA it started. -/
theorem State.instrStep_eq_next {s t : State} (h : s.instrStep = .next t) :
    ∃ u v, s.fetchTick = .ok u ∧ u.afterPoll = .next v ∧ v.finishDma = .ok t := by
  unfold State.instrStep at h
  split at h
  · cases h
  · next u hu =>
    cases hv : u.afterPoll with
    | next v => rw [hv] at h; exact ⟨u, v, hu, hv, Run.result_eq_next h⟩
    | fault f => rw [hv] at h; cases h
    | refused r => rw [hv] at h; cases h

/-- A tick that completes is one of the DMA engine's or one of the CPU's, and no fault stands before it. -/
theorem State.tick_cases {s t : State} (h : s.tick = .ok t) :
    s.fault = none ∧ (s.dmaTick = .ok t ∨ ∃ c, (s.withCpu c).busCycle .cpu = .ok t) := by
  unfold State.tick at h
  split at h
  · cases h
  · next hf =>
    refine ⟨hf, ?_⟩
    split at h
    · exact .inl h
    · split at h
      · cases h
      · next c _ => exact .inr ⟨c, h⟩

/-- A step that completes is a tick or an instruction step, and no fault stands before it. -/
theorem step_cases {s t : State} (h : step s = .next t) :
    s.fault = none ∧ (s.tick = .ok t ∨ s.instrStep = .next t) := by
  unfold step at h
  split at h
  · cases h
  · next hf =>
    refine ⟨hf, ?_⟩
    split at h
    · exact .inl (Run.result_eq_next h)
    · exact .inr h

/-! ## Relations that every part of a step keeps -/

/-- What a relation needs for a step to keep it: it composes, it says nothing of the CPU, and the count of the DMA engine
and every bus cycle keep it. -/
structure StepRel (R : State → State → Prop) : Prop where
  refl : ∀ s, R s s
  trans : ∀ {s t u}, R s t → R t u → R s u
  withCpu : ∀ s c, R s (s.withCpu c)
  dmaStep : ∀ s, R s s.dmaStep
  busCycle : ∀ {s t m}, s.busCycle m = .ok t → R s t

namespace StepRel

variable {R : State → State → Prop} (hR : StepRel R)
include hR

/-- A bus cycle driven by any CPU. -/
theorem drive {s t : State} {c : Cpu} {m : Master} (h : (s.withCpu c).busCycle m = .ok t) : R s t :=
  hR.trans (hR.withCpu s c) (hR.busCycle h)

theorem dmaTick {s t : State} (h : s.dmaTick = .ok t) : R s t := hR.trans (hR.dmaStep s) (hR.busCycle h)

theorem dmaTicks {n : Nat} {s t : State} (h : State.dmaTicks n s = .ok t) : R s t := by
  induction n generalizing s with
  | zero => cases h; exact hR.refl _
  | succ n ih =>
    unfold State.dmaTicks at h
    split at h
    · obtain ⟨u, hu, ht⟩ := andThen_eq_ok h
      exact hR.trans (hR.dmaTick hu) (ih ht)
    · cases h; exact hR.refl _

theorem finishDma {s t : State} (h : s.finishDma = .ok t) : R s t := hR.dmaTicks h

theorem cycle {s t : State} {r : Row} (h : s.cycle r = .ok t) : R s t := by
  obtain ⟨u, hu, ht⟩ := andThen_eq_ok h
  exact hR.trans (hR.finishDma hu) (hR.drive ht)

theorem runRows {rows : List Row} {s t : State} (h : s.runRows rows = .ok t) : R s t := by
  induction rows generalizing s with
  | nil => cases h
  | cons r rows ih =>
    obtain ⟨u, hu, ht⟩ := andThen_eq_ok h
    refine hR.trans (hR.cycle hu) ?_
    split at ht
    · cases ht; exact hR.withCpu u _
    · exact ih ht

theorem takeInterrupt {s t : State} {k : IntKind} (h : s.takeInterrupt k = .ok t) : R s t :=
  hR.trans (hR.withCpu s _) (hR.runRows h)

/-- The meaning of every instruction. -/
theorem exec {i : Instr} {s t : State} (h : exec i s = .next t) : R s t := by
  rw [exec_form] at h
  obtain ⟨c, rows, hf⟩ | ⟨c, hf⟩ := (formOf i).run_cases s
  · exact hR.trans (hR.withCpu s c) (hR.runRows (Run.result_eq_next (hf.symm.trans h)))
  · cases hf.symm.trans h; exact hR.withCpu s c

theorem fetchTick {s t : State} (h : s.fetchTick = .ok t) : R s t := by
  obtain ⟨u, hu, ht⟩ := andThen_eq_ok h
  exact hR.trans (hR.finishDma hu) (hR.drive ht)

theorem fetchInstr {s t : State} {i : Instr} (h : s.fetchInstr = .ok (i, t)) : R s t := by
  have latch : R s s.latchOpcode := hR.withCpu s _
  obtain rfl | h1 | ⟨u, h1, h2⟩ := State.fetchInstr_cases h
  · exact latch
  · exact hR.trans latch (hR.cycle h1)
  · exact hR.trans latch (hR.trans (hR.cycle h1) (hR.cycle h2))

theorem afterPoll {s t : State} (h : s.afterPoll = .next t) : R s t := by
  obtain ⟨i, u, hu, ht⟩ | ⟨k, ht⟩ := State.afterPoll_cases h
  · exact hR.trans (hR.fetchInstr hu) (hR.exec ht)
  · exact hR.trans (hR.withCpu s _) (hR.takeInterrupt ht)

theorem instrStep {s t : State} (h : s.instrStep = .next t) : R s t := by
  obtain ⟨u, v, hu, hv, ht⟩ := State.instrStep_eq_next h
  exact hR.trans (hR.fetchTick hu) (hR.trans (hR.afterPoll hv) (hR.finishDma ht))

theorem tick {s t : State} (h : s.tick = .ok t) : R s t := by
  obtain ⟨-, ht | ⟨c, ht⟩⟩ := State.tick_cases h
  · exact hR.dmaTick ht
  · exact hR.drive ht

/-- The whole step. -/
theorem step {s t : State} (h : step s = .next t) : R s t := by
  obtain ⟨-, ht | ht⟩ := step_cases h
  · exact hR.tick ht
  · exact hR.instrStep ht

end StepRel

end Sys2Proof.Machine
end

section
/-! PROOF. The cartridge and the audio parameters are fixed data: nothing that a bus cycle does writes them, nor the
sticky fault (rules R4, R47, R106, R490). -/

namespace Sys2Proof.Machine

/-- The data that no step changes, and the sticky fault, as before. -/
structure Fixed (s t : State) : Prop where
  cart : t.cart = s.cart
  params : t.apu.params = s.apu.params
  fault : t.fault = s.fault

theorem Fixed.refl (s : State) : Fixed s s := ⟨rfl, rfl, rfl⟩

theorem Fixed.trans {s t u : State} (h : Fixed s t) (k : Fixed t u) : Fixed s u :=
  ⟨k.cart.trans h.cart, k.params.trans h.params, k.fault.trans h.fault⟩

/-! ## The CPU bus -/

theorem State.busWrite_fixed {s t : State} {a : Word} {v : Byte} (h : s.busWrite a v = .ok t) : Fixed s t := by
  unfold State.busWrite at h
  cases hT : cpuTarget a <;> rw [hT] at h
  case apu | apuStatus | pad2 => cases h; exact ⟨rfl, Apu.write_params .., rfl⟩
  case ram | ppu | oamDma | pad1 => cases h; exact ⟨rfl, rfl, rfl⟩
  case reserved | hole | prgRom => cases h
  case prgRam =>
    dsimp only at h
    split at h
    · cases h
    · cases h; exact ⟨rfl, rfl, rfl⟩

theorem State.busRead_fixed {s t : State} {a : Word} {v : Byte} (h : s.busRead a = .ok (v, t)) : Fixed s t := by
  unfold State.busRead at h
  cases hT : cpuTarget a <;> rw [hT] at h
  case ram | ppu | apu | oamDma | apuStatus | pad1 | pad2 | prgRom => cases h; exact ⟨rfl, rfl, rfl⟩
  case reserved | hole => cases h
  case prgRam =>
    dsimp only at h
    split at h
    · cases h
    · cases h; exact .refl s

theorem State.driveBus_fixed {s t : State} (h : s.driveBus = .ok t) : Fixed s t := by
  unfold State.driveBus at h
  split at h
  · exact State.busWrite_fixed h
  · split at h <;> cases h <;> exact ⟨rfl, rfl, rfl⟩

theorem State.completeRead_fixed {s t : State} {m : Master} (h : s.completeRead m = .ok t) : Fixed s t := by
  unfold State.completeRead at h
  split at h
  · cases h; exact .refl s
  · split at h
    · cases h
    · next v u hu =>
      cases h
      exact (State.busRead_fixed hu).trans ⟨rfl, rfl, rfl⟩

/-! ## The PPU bus -/

theorem State.servePpuRead_fixed {s t : State} (h : s.servePpuRead = .ok t) : Fixed s t := by
  unfold State.servePpuRead at h
  split at h
  · split at h
    · cases h
    · cases h; exact ⟨rfl, rfl, rfl⟩
  · cases h; exact .refl s

theorem State.ppuBusWrite_fixed {s t : State} {p : BitVec 14} {d : Byte} (h : s.ppuBusWrite p d = .ok t) :
    Fixed s t := by
  unfold State.ppuBusWrite at h
  split at h
  · cases h
  · cases h; exact ⟨rfl, rfl, rfl⟩

theorem State.lostPpuWrite_fixed (s : State) (p : BitVec 14) : Fixed s (s.lostPpuWrite p) := by
  unfold State.lostPpuWrite
  split <;> exact ⟨rfl, rfl, rfl⟩

theorem State.servePpuWrite_fixed {s t : State} (h : s.servePpuWrite = .ok t) : Fixed s t := by
  unfold State.servePpuWrite at h
  split at h
  · split at h
    · cases h; exact s.lostPpuWrite_fixed _
    · exact State.ppuBusWrite_fixed h
  · cases h; exact .refl s

theorem State.ppuStep_fixed {s t : State} (h : s.ppuStep = .ok t) : Fixed s t := by
  unfold State.ppuStep at h
  split at h
  · cases h
  · next p _ =>
    obtain ⟨u, hu, ht⟩ := andThen_eq_ok h
    have dot : Fixed s { s with ppu := p } := ⟨rfl, rfl, rfl⟩
    exact dot.trans ((State.servePpuRead_fixed hu).trans (State.servePpuWrite_fixed ht))

theorem State.ppuSteps_fixed {s t : State} (h : s.ppuSteps = .ok t) : Fixed s t := by
  obtain ⟨v, hv, ht⟩ := andThen_eq_ok h
  obtain ⟨u, hu, hv⟩ := andThen_eq_ok hv
  exact (State.ppuStep_fixed hu).trans ((State.ppuStep_fixed hv).trans (State.ppuStep_fixed ht))

/-! ## A bus cycle, and the step -/

/-- A bus cycle that completes: tick steps 2 to 6, in order (rule R490). -/
theorem State.busCycle_eq_ok {s t : State} {m : Master} (h : s.busCycle m = .ok t) :
    ∃ s1 s2 s3, s.driveBus = .ok s1 ∧ s1.ppuSteps = .ok s2 ∧ s2.latchNmi.completeRead m = .ok s3 ∧ t = s3.endTick := by
  obtain ⟨s1, h1, h⟩ := andThen_eq_ok h
  obtain ⟨s2, h2, h⟩ := andThen_eq_ok h
  obtain ⟨s3, h3, h⟩ := andThen_eq_ok h
  cases h
  exact ⟨s1, s2, s3, h1, h2, h3, rfl⟩

theorem State.busCycle_fixed {s t : State} {m : Master} (h : s.busCycle m = .ok t) : Fixed s t := by
  obtain ⟨s1, s2, s3, h1, h2, h3, rfl⟩ := State.busCycle_eq_ok h
  have latch : Fixed s2 s2.latchNmi := ⟨rfl, rfl, rfl⟩
  have last : Fixed s3 s3.endTick := ⟨rfl, Apu.step_params _, rfl⟩
  exact (State.driveBus_fixed h1).trans <| (State.ppuSteps_fixed h2).trans <|
    latch.trans <| (State.completeRead_fixed h3).trans last

theorem stepRel_fixed : StepRel Fixed where
  refl := .refl
  trans := .trans
  withCpu _ _ := ⟨rfl, rfl, rfl⟩
  dmaStep _ := ⟨rfl, rfl, rfl⟩
  busCycle := State.busCycle_fixed

/-- Settles O37: the cartridge, the audio parameters and the fault are fixed by every bus cycle, so by the step; and a
state that steps has no fault. -/
theorem cartridgeNeverChanges : Obligations.CartridgeNeverChanges := by
  intro s t h
  obtain ⟨hcart, hparams, hfault⟩ := stepRel_fixed.step h
  exact ⟨hcart, hparams, hfault.trans (step_cases h).1⟩

end Sys2Proof.Machine
end

section
/-! PROOF. What the read-and-use operations ADC, SBC, CMP, CPX, CPY and BIT make of the registers, by arithmetic on the
operand byte (rules R231, R233 to R235, R241, R242). -/

namespace Sys2Proof.Machine

/-- A read-and-use instruction on a byte of memory or an immediate byte: its operation on that byte (rule R230). -/
theorem exec_readUse {i : Instr} {op : ReadOp} {o : Operand} {s : State} {m : Byte} (hi : formOf i = .readUse op o)
    (hs : s.CanRun) (hm : s.Operates o m) : ∃ t, exec i s = .next t ∧ t.cpu.regs = op.run m s.cpu.regs := by
  rw [exec_form, hi]
  exact readUse_operates hs hm

/-! ## Addition and subtraction (rules R231, R241) -/

/-- Two bytes and a carry add up within nine bits: the model's sum is the sum of the numbers. -/
theorem nineBitSum_eq (a m : Byte) (c : Bool) :
    a.setWidth 9 + m.setWidth 9 + (BitVec.ofBool c).setWidth 9 = BitVec.ofNat 9 (a.toNat + m.toNat + c.toNat) := by
  apply BitVec.eq_of_toNat_eq
  simp

/-- Bit 8 of the sum of two bytes and a carry. -/
theorem msb_nineBitSum (a m : Byte) (c : Bool) :
    (BitVec.ofNat 9 (a.toNat + m.toNat + c.toNat)).msb = decide (256 ≤ a.toNat + m.toNat + c.toNat) := by
  have ha := a.isLt
  have hm := m.isLt
  have hc := c.toNat_le
  rw [BitVec.msb_eq_decide, BitVec.toNat_ofNat, Nat.mod_eq_of_lt (by omega)]

/-- The sign of the sum differs from both operands' signs iff the signed sum leaves the range of a byte. -/
theorem msb_overflow (a m : Byte) (c : Bool) :
    ((a ^^^ BitVec.ofNat 8 (a.toNat + m.toNat + c.toNat)) &&& (m ^^^ BitVec.ofNat 8 (a.toNat + m.toNat + c.toNat))).msb =
      decide (a.toInt + m.toInt + c.toNat < -128 ∨ 127 < a.toInt + m.toInt + c.toNat) := by
  have ha := a.isLt
  have hm := m.isLt
  have hc := c.toNat_le
  rw [BitVec.msb_and, BitVec.msb_xor, BitVec.msb_xor, Bool.eq_iff_iff]
  simp only [BitVec.msb_eq_decide, BitVec.toInt_eq_toNat_cond, BitVec.toNat_ofNat,
    Bool.and_eq_true, bne_iff_ne, ne_eq, decide_eq_decide, decide_eq_true_eq]
  omega

/-- ADC by arithmetic (rule R231). -/
theorem opAdc_eq (m : Byte) (r : Regs) :
    opAdc m r = { r with
      a := BitVec.ofNat 8 (r.a.toNat + m.toNat + r.p.c.toNat)
      p := { r.p with
        c := decide (256 ≤ r.a.toNat + m.toNat + r.p.c.toNat)
        v := decide (r.a.toInt + m.toInt + r.p.c.toNat < -128 ∨ 127 < r.a.toInt + m.toInt + r.p.c.toNat) }.setNZ
          (BitVec.ofNat 8 (r.a.toNat + m.toNat + r.p.c.toNat)) } := by
  have hwidth : 8 ≤ 9 := by omega
  simp only [opAdc, nineBitSum_eq, BitVec.setWidth_ofNat_of_le hwidth, msb_nineBitSum, msb_overflow]

/-- N and Z of the low eight bits of a number. -/
theorem Flags.setNZ_ofNat (p : Flags) (n : Nat) :
    p.setNZ (BitVec.ofNat 8 n) = { p with n := decide (128 ≤ n % 256), z := decide (n % 256 = 0) } := by
  have hz : BitVec.ofNat 8 n = 0 ↔ n % 256 = 0 := BitVec.toNat_inj.symm.trans (by simp)
  simp only [Flags.setNZ, hz, BitVec.msb_eq_decide, BitVec.toNat_ofNat]

/-- Settles O14: the model's sum and overflow test are those of the numbers. -/
theorem addWithCarry : Obligations.AddWithCarry := by
  intro i o s m hi hs hm
  obtain ⟨t, ht, hr⟩ := exec_readUse hi hs hm
  have hadc := hr.trans (opAdc_eq m s.cpu.regs)
  rw [Flags.setNZ_ofNat] at hadc
  exact ⟨t, _, _, ht, rfl, rfl, hadc⟩

/-- The complement of a byte is its negative less one. -/
theorem toInt_complement (m : Byte) : (~~~m).toInt = -m.toInt - 1 := by
  have hm := m.isLt
  simp only [BitVec.toInt_eq_toNat_cond, BitVec.toNat_not]
  omega

/-- A carry is the absence of a borrow. -/
theorem toNat_add_toNat_not (c : Bool) : c.toNat + (!c).toNat = 1 := by cases c <;> rfl

/-- Adding the complement and the carry subtracts the byte and the borrow, modulo 256. -/
theorem complementSum_eq (a m : Byte) (c : Bool) :
    BitVec.ofNat 8 (a.toNat + (~~~m).toNat + c.toNat) = a - m - BitVec.ofNat 8 (!c).toNat := by
  have hm := m.isLt
  have hc := toNat_add_toNat_not c
  apply BitVec.eq_of_toNat_eq
  simp only [BitVec.toNat_ofNat, BitVec.toNat_sub, BitVec.toNat_not]
  omega

/-- SBC by arithmetic: the sum with the complement carries iff no borrow occurs (rule R241). -/
theorem opSbc_eq (m : Byte) (r : Regs) :
    opSbc m r = { r with
      a := r.a - m - BitVec.ofNat 8 (!r.p.c).toNat
      p := { r.p with
        c := decide (m.toNat + (!r.p.c).toNat ≤ r.a.toNat)
        v := decide (r.a.toInt - m.toInt - (!r.p.c).toNat < -128 ∨ 127 < r.a.toInt - m.toInt - (!r.p.c).toNat) }.setNZ
          (r.a - m - BitVec.ofNat 8 (!r.p.c).toNat) } := by
  have hm := m.isLt
  have hborrow := toNat_add_toNat_not r.p.c
  have hc : 256 ≤ r.a.toNat + (~~~m).toNat + r.p.c.toNat ↔ m.toNat + (!r.p.c).toNat ≤ r.a.toNat := by
    rw [BitVec.toNat_not]; omega
  have hv : r.a.toInt + (~~~m).toInt + r.p.c.toNat = r.a.toInt - m.toInt - (!r.p.c).toNat := by
    rw [toInt_complement]; omega
  rw [opSbc, opAdc_eq]
  simp only [complementSum_eq, hc, hv]

/-- Settles O15: SBC adds the complement, which subtracts. -/
theorem subtractWithCarry : Obligations.SubtractWithCarry := by
  intro i o s m hi hs hm
  obtain ⟨t, ht, hr⟩ := exec_readUse hi hs hm
  exact ⟨t, _, _, ht, rfl, rfl, hr.trans (opSbc_eq m s.cpu.regs)⟩

/-! ## Compares and BIT (rules R233 to R235, R242) -/

/-- The flags of a compare: N is bit 7 of the difference, Z tells whether the two are equal. -/
theorem Flags.compare_eq (p : Flags) (reg m : Byte) :
    p.compare reg m =
      { p with c := decide (m.toNat ≤ reg.toNat), n := (reg - m).getLsbD 7, z := decide (reg = m) } := by
  have hz : reg - m = 0 ↔ reg = m := sub_eq_zero
  simp only [Flags.compare, Flags.setNZ, BitVec.msb_eq_getLsbD_last, hz]

/-- Settles O16: the three operations are one compare, of A, of X and of Y. -/
theorem compares : Obligations.Compares := by
  intro i op o s m reg hi hs hm hop
  obtain ⟨t, ht, hr⟩ := exec_readUse hi hs hm
  refine ⟨t, ht, ?_⟩
  rw [hr, ← Flags.compare_eq]
  obtain ⟨rfl, rfl⟩ | ⟨rfl, rfl⟩ | ⟨rfl, rfl⟩ := hop
  · rfl
  · rfl
  · rfl

/-- Settles O17: the model's operation sets these flags of the operand byte. -/
theorem bitTest : Obligations.BitTest := by
  intro i o s m hi hs hm
  exact exec_readUse hi hs hm

end Sys2Proof.Machine
end

section
/-! PROOF. The decoder and the encoder are inverse: the opcode byte of an instruction selects its row, and a row selected
holds the bytes it was read from (rules R140, R141, R150). -/

namespace Sys2Proof

/-! ## The operand bytes -/

theorem Instr.operand_length (i : Instr) : i.operand.length = i.operandBytes := by cases i <;> rfl

/-- A signed byte holds every branch offset in range (rules R155, R300). -/
theorem toInt_ofInt_of_offsetInRange {off : Int} (h : offsetInRange off = true) : (BitVec.ofInt 8 off).toInt = off := by
  simp only [offsetInRange, Bool.and_eq_true, decide_eq_true_eq] at h
  rw [BitVec.toInt_ofInt, Int.bmod_def]
  omega

theorem offsetInRange_toInt (b : Byte) : offsetInRange b.toInt = true := by
  have hlo := b.le_toInt
  have hhi := b.toInt_lt
  simp only [offsetInRange, Bool.and_eq_true, decide_eq_true_eq]
  omega

/-! ## Rows of the opcode table -/

/-- The row that the encoding of a well-formed instruction selects is the instruction. -/
theorem opcodeRow_encode {i : Instr} (rest : List Byte) (h : i.wellFormed = true) :
    opcodeRow i.opcode ((i.operand ++ rest).getD 0 0) ((i.operand ++ rest).getD 1 0) = some i := by
  cases i <;> dsimp only [Instr.opcode]
  case bcc | bcs | beq | bmi | bne | bpl | bvc | bvs =>
    exact congrArg some (congrArg _ (toInt_ofInt_of_offsetInRange h))
  all_goals first
    | exact congrArg some (congrArg _ (Machine.joinBytes_hiByte_loByte _))
    | rfl

/-- A row selected is a well-formed instruction of that opcode byte, with the bytes read as its operand. -/
theorem opcodeRow_eq_some {op b1 b2 : Byte} {i : Instr} (h : opcodeRow op b1 b2 = some i) :
    i.wellFormed = true ∧ i.opcode = op ∧ i.operand = [b1, b2].take i.operandBytes := by
  unfold opcodeRow at h
  split at h
  case h_152 => cases h
  all_goals
    next hop =>
    cases h
    refine ⟨?_, BitVec.eq_of_toNat_eq hop.symm, ?_⟩
    · first
      | rfl
      | exact offsetInRange_toInt b1
    · simp [Instr.operand, Instr.operandBytes]

/-! ## The decoder -/

/-- The decoder on a byte that selects a row, by the bytes that follow it. -/
theorem decode_cons {op : Byte} {rest : List Byte} {i : Instr}
    (h : opcodeRow op (rest.getD 0 0) (rest.getD 1 0) = some i) :
    decode (op :: rest) =
      if i.operandBytes ≤ rest.length then .ok (i, rest.drop i.operandBytes) else .error (.missingOperand op) := by
  simp only [decode, h]

/-- Bytes that decode: the row of the first, whose operand bytes follow it. -/
theorem decode_eq_ok {bs rest : List Byte} {i : Instr} (h : decode bs = .ok (i, rest)) :
    ∃ op bs', bs = op :: bs' ∧ opcodeRow op (bs'.getD 0 0) (bs'.getD 1 0) = some i ∧ i.operandBytes ≤ bs'.length ∧
      rest = bs'.drop i.operandBytes := by
  cases bs with
  | nil => cases h
  | cons op bs =>
    cases hrow : opcodeRow op (bs.getD 0 0) (bs.getD 1 0) with
    | none => simp only [decode, hrow] at h; cases h
    | some j =>
      rw [decode_cons hrow] at h
      split at h
      · next hlen => cases h; exact ⟨op, bs, rfl, hrow, hlen, rfl⟩
      · cases h

theorem Instr.operandBytes_le (i : Instr) : i.operandBytes ≤ 2 := by cases i <;> simp [Instr.operandBytes]

/-- The first bytes of a list, by their positions. -/
theorem take_getD_pair {bs : List Byte} {n : Nat} (h2 : n ≤ 2) (hlen : n ≤ bs.length) :
    [bs.getD 0 0, bs.getD 1 0].take n = bs.take n := by
  obtain rfl | rfl | rfl : n = 0 ∨ n = 1 ∨ n = 2 := by omega
  · rfl
  · match bs, hlen with
    | _ :: _, _ => rfl
  · match bs, hlen with
    | _ :: _ :: _, _ => rfl

/-- Settles O1: each word is decoded by the table. -/
theorem tableWordsDecode : Obligations.TableWordsDecode :=
  ⟨rfl, rfl, rfl, rfl, rfl, rfl, rfl, rfl, rfl, rfl, rfl, rfl, rfl, rfl⟩

/-- Settles O2: the row of the opcode byte, read with the operand bytes, is the instruction. -/
theorem decodeAfterEncode : Obligations.DecodeAfterEncode := by
  intro i rest h
  have hlen := i.operand_length
  rw [encode, List.cons_append, decode_cons (opcodeRow_encode rest h), if_pos (by simp [hlen]), ← hlen,
    List.drop_left]

/-- Settles O3: the row that decoded holds the bytes it was read from. -/
theorem encodeAfterDecode : Obligations.EncodeAfterDecode := by
  intro bs rest i h
  obtain ⟨op, bs', rfl, hrow, hlen, rfl⟩ := decode_eq_ok h
  obtain ⟨hwf, hop, hoperand⟩ := opcodeRow_eq_some hrow
  refine ⟨hwf, ?_⟩
  rw [encode, hop, hoperand, take_getD_pair i.operandBytes_le hlen, List.cons_append, List.take_append_drop]

end Sys2Proof
end

section
/-! PROOF. The invariant of memories and counters: each part of a bus cycle keeps it, so the step does (rules R31, R33,
R36, R38, R39, R41, R44). -/

namespace Sys2Proof.Machine

/-! ## The PPU's share of the invariant -/

/-- The part of the invariant that speaks of the PPU. -/
structure Ppu.Ok (p : Ppu) : Prop where
  oam : p.oam.wfSize 256 = true
  secOam : p.secOam.wfSize 32 = true
  palette : p.palette.wfSize 32 = true
  frameBuffer : p.frameBuffer.wfSize 61440 = true
  scanline : p.scanline ≤ 261
  dot : p.dot ≤ 340
  secCount : p.secCount ≤ 8
  slots : p.slots.length = 8
  sprite0 : p.sprite0Hit = false

theorem paletteIndex_lt (a : BitVec 14) : paletteIndex a < 32 := by
  have hle : paletteIndex a ≤ 31 := by
    unfold paletteIndex
    rw [BitVec.toNat_and]
    exact Nat.and_le_right
  omega

theorem Ppu.registerAccess_ok {p : Ppu} (h : p.Ok) : p.registerAccess.Ok := by
  unfold Ppu.registerAccess
  split
  case h_4 => exact { h with oam := Memory.wfSize_write h.oam p.oamAddr.isLt _ }
  case h_5 => unfold Ppu.writeScroll; split <;> exact { h with }
  case h_6 => unfold Ppu.writeAddr; split <;> exact { h with }
  case h_7 =>
    unfold Ppu.writeData
    dsimp only
    split
    · exact { h with palette := Memory.wfSize_write h.palette (paletteIndex_lt _) _ }
    · exact { h with }
  all_goals exact { h with }

theorem Ppu.cpuAccess_ok {p : Ppu} (h : p.Ok) : p.cpuAccess.Ok := by
  have hend : p.endStrobes.Ok := { h with }
  unfold Ppu.cpuAccess
  dsimp only
  split
  · exact Ppu.registerAccess_ok { hend with }
  · exact hend

theorem Ppu.reload_ok {p : Ppu} (h : p.Ok) : p.reload.Ok := by
  obtain ⟨b, l, e⟩ := p.reload_only
  rw [e]; exact { h with }

theorem Ppu.emitPixel_ok {p : Ppu} (h : p.Ok) : p.emitPixel.Ok := by
  unfold Ppu.emitPixel Ppu.visibleLine Ppu.dotIn
  split
  · next hdot =>
    simp only [Bool.and_eq_true, decide_eq_true_eq] at hdot
    exact { h with frameBuffer := Memory.wfSize_write h.frameBuffer (by omega) _ }
  · exact h

theorem Ppu.fetchBackground_ok {p : Ppu} (h : p.Ok) : p.fetchBackground.Ok := by
  obtain ⟨a, r, n, at_, lo, hi, e⟩ := p.fetchBackground_only
  rw [e]; exact { h with }

theorem Ppu.loadSlot_ok {p : Ppu} (h : p.Ok) (n : Nat) (hi lo at_ x : Byte) : (p.loadSlot n hi lo at_ x).Ok :=
  { h with slots := by rw [Ppu.loadSlot, List.length_set]; exact h.slots }

theorem Ppu.fetchSprite_ok {p q : Ppu} (h : p.Ok) (hq : p.fetchSprite = .ok q) : q.Ok := by
  unfold Ppu.fetchSprite at hq
  dsimp only at hq
  repeat' split at hq
  all_goals cases hq
  all_goals first
    | exact Ppu.loadSlot_ok h ..
    | exact { h with }

theorem Ppu.updateScroll_ok {p : Ppu} (h : p.Ok) : p.updateScroll.Ok := by
  obtain ⟨v, e⟩ := p.updateScroll_only
  rw [e]; exact { h with }

theorem Ppu.scanSprite_ok {p : Ppu} (k : Nat) (h : p.Ok) : (p.scanSprite k).Ok := by
  unfold Ppu.scanSprite
  generalize spriteInRange _ _ _ = inRange
  cases inRange
  · exact h
  · by_cases hc : p.secCount < 8 <;> simp only [hc, if_true, if_false]
    · exact { h with
        secOam := Memory.wfSize_writeBytes _ h.secOam (by simp only [List.length_cons, List.length_nil]; omega)
        secCount := hc }
    · exact { h with }

theorem Ppu.scanSprites_ok (ks : List Nat) {p : Ppu} (h : p.Ok) : (ks.foldl Ppu.scanSprite p).Ok := by
  induction ks generalizing p with
  | nil => exact h
  | cons k ks ih => exact ih (Ppu.scanSprite_ok k h)

theorem Ppu.evaluateSprites_ok {p : Ppu} (h : p.Ok) : p.evaluateSprites.Ok := by
  unfold Ppu.evaluateSprites
  split
  · exact { h with secOam := Memory.wfSize_writeBytes _ rfl (by simp), secCount := Nat.zero_le _ }
  · split
    · exact Ppu.scanSprites_ok _ h
    · exact h

theorem Ppu.shiftBackground_ok {p : Ppu} (h : p.Ok) : p.shiftBackground.Ok := by
  obtain ⟨a, b, e⟩ := p.shiftBackground_only
  rw [e]; exact { h with }

theorem Ppu.shiftSprites_ok {p : Ppu} (h : p.Ok) : p.shiftSprites.Ok := by
  unfold Ppu.shiftSprites
  split
  · exact { h with slots := (List.length_map ..).trans h.slots }
  · exact h

theorem Ppu.vblankEdges_ok {p : Ppu} (h : p.Ok) : p.vblankEdges.Ok := by
  obtain ⟨v, f, o, e⟩ := p.vblankEdges_only
  rw [e]; exact { h with }

theorem Ppu.advanceCounters_ok {p : Ppu} (h : p.Ok) : p.advanceCounters.Ok := by
  have hline := h.scanline
  have hdot := h.dot
  unfold Ppu.advanceCounters
  split
  · split
    · exact { h with scanline := Nat.zero_le _, dot := Nat.zero_le _ }
    · exact { h with scanline := (by omega : p.scanline + 1 ≤ 261), dot := Nat.zero_le _ }
  · exact { h with dot := (by omega : p.dot + 1 ≤ 340) }

theorem Ppu.render_ok {p q : Ppu} (h : p.Ok) (hq : p.render = .ok q) : q.Ok := by
  unfold Ppu.render at hq
  split at hq
  · cases hq
  · next r hr =>
    cases hq
    have hfetched := Ppu.fetchSprite_ok (Ppu.fetchBackground_ok (Ppu.emitPixel_ok (Ppu.reload_ok h))) hr
    exact Ppu.shiftSprites_ok (Ppu.shiftBackground_ok (Ppu.evaluateSprites_ok (Ppu.updateScroll_ok hfetched)))

/-- One dot (rule R360). -/
theorem Ppu.step_ok {p q : Ppu} (h : p.Ok) (hq : p.step = .ok q) : q.Ok := by
  unfold Ppu.step at hq
  dsimp only at hq
  split at hq
  · cases hq
  · next r hr =>
    cases hq
    have hrendered : r.Ok := by
      split at hr
      · exact Ppu.render_ok (Ppu.cpuAccess_ok h) hr
      · cases hr; exact Ppu.cpuAccess_ok h
    exact Ppu.advanceCounters_ok (Ppu.vblankEdges_ok hrendered)

/-! ## The APU's share of the invariant -/

/-- The part of the invariant that speaks of the sample path, for a filter period of `n`. -/
structure SamplePath.Ok (n : Nat) (sp : SamplePath) : Prop where
  cycles : sp.cycles < max 1 n
  history : sp.history.length = Config.firTaps
  lastIndex : sp.lastIndex < Config.firTaps
  writePos : sp.writePos < Config.ringLen
  ring : Cells.wfFrom 0 0 sp.ring = true

theorem Config.ringLen_pos : 0 < Config.ringLen := Nat.succ_pos _

theorem SamplePath.filterInput_ok {n : Nat} {sp : SamplePath} (h : sp.Ok n) (x : Rat) : (sp.filterInput x).Ok n := by
  have hindex : (sp.lastIndex + 1) % Config.firTaps < Config.firTaps := Nat.mod_lt _ (by decide)
  have hcycles : 0 < max 1 n := by omega
  unfold SamplePath.filterInput
  dsimp only
  split
  · exact { h with cycles := hcycles, history := (List.length_set ..).trans h.history, lastIndex := hindex }
  · exact {
      cycles := hcycles
      history := (List.length_set ..).trans h.history
      lastIndex := hindex
      writePos := Nat.mod_lt _ Config.ringLen_pos
      ring := Cells.wfFrom_write h.ring (Nat.zero_le _) }

theorem SamplePath.step_ok {n : Nat} {sp : SamplePath} (h : sp.Ok n) (x : Rat) : (sp.step n x).Ok n := by
  unfold SamplePath.step
  split
  · exact SamplePath.filterInput_ok h x
  · exact { h with cycles := (by omega : sp.cycles + 1 < max 1 n) }

/-- The part of the invariant that speaks of the APU. -/
structure Apu.Ok (a : Apu) : Prop where
  count : a.count < 37282
  sample : a.sample.Ok (Config.samplePeriod a.params.outputRate)

theorem Apu.step_count (a : Apu) : a.step.count = a.nextCount := by
  obtain ⟨-, -, -, -, hcount, -⟩ := a.frameCounterStep.timerSteps_units
  refine Eq.trans ?_ hcount
  unfold Apu.step
  dsimp only
  split <;> split <;> rfl

theorem Apu.nextCount_lt (a : Apu) : a.nextCount < 37282 := by
  have hwrap : a.mode.wrap ≤ 37282 := by cases a.mode <;> decide
  unfold Apu.nextCount
  split <;> omega

/-- A step is what its units do, and then the sample step (rule R423). -/
theorem Apu.step_eq_units_sample (a : Apu) :
    ∃ u : Apu, u.params = a.params ∧ u.sample = a.sample ∧
      a.step = { u with sample := u.sample.step (Config.samplePeriod u.params.outputRate) u.mix } := by
  refine ⟨_, ?_, ?_, rfl⟩ <;> split <;> split <;> simp

/-- The sample step takes the level of the state that the units leave (rule R423). -/
theorem Apu.step_sample (a : Apu) :
    a.step.sample = a.sample.step (Config.samplePeriod a.params.outputRate) a.step.mix := by
  obtain ⟨u, hparams, hsample, hstep⟩ := a.step_eq_units_sample
  rw [hstep, ← hparams, ← hsample]
  rfl

theorem Apu.step_ok {a : Apu} (h : a.Ok) : a.step.Ok where
  count := by rw [Apu.step_count]; exact a.nextCount_lt
  sample := by rw [Apu.step_params, Apu.step_sample]; exact SamplePath.step_ok h.sample _

/-- A write of the register file leaves the count and the sample path alone. -/
theorem Apu.write_frame (a : Apu) (index : Nat) (d : Byte) :
    (a.write index d).count = a.count ∧ (a.write index d).sample = a.sample := by
  unfold Apu.write
  split <;> exact ⟨rfl, rfl⟩

theorem Apu.write_ok {a : Apu} (h : a.Ok) (index : Nat) (d : Byte) : (a.write index d).Ok := by
  obtain ⟨hcount, hsample⟩ := a.write_frame index d
  exact ⟨hcount ▸ h.count, by rw [hsample, Apu.write_params]; exact h.sample⟩

/-! ## The invariant by its parts -/

theorem State.Inv.ppu {s : State} (h : s.Inv) : s.ppu.Ok := by
  obtain ⟨hm, hc⟩ := h
  exact { hm, hc with }

theorem State.Inv.apu {s : State} (h : s.Inv) : s.apu.Ok := by
  obtain ⟨-, hc⟩ := h
  exact ⟨hc.frameCount, hc.sampleCycles, hc.history, hc.lastIndex, hc.writePos, hc.ring⟩

theorem State.Inv.withPpu {s : State} (h : s.Inv) {q : Ppu} (hq : q.Ok) : State.Inv { s with ppu := q } := by
  obtain ⟨hm, hc⟩ := h
  exact ⟨{ hq, hm with }, { hq, hc with }⟩

theorem State.Inv.withApu {s : State} (h : s.Inv) {b : Apu} (hb : b.Ok) : State.Inv { s with apu := b } := by
  obtain ⟨hm, hc⟩ := h
  obtain ⟨hcount, hsample⟩ := hb
  exact ⟨{ hm with }, { hc with
    frameCount := hcount, sampleCycles := hsample.cycles, history := hsample.history, lastIndex := hsample.lastIndex
    writePos := hsample.writePos, ring := hsample.ring }⟩

/-- The invariant does not speak of the CPU, the cycle number, the controller port and the latch of the DMA engine. -/
theorem State.Inv.frame {s : State} (h : s.Inv) {c : Cpu} {n : Nat} {d : Dma} {k : Controller}
    (hd : d.pending ≤ 514) : State.Inv { s with cpu := c, cyc := n, dma := d, ctl := k } :=
  ⟨{ h.1 with }, { h.2 with dmaPending := hd }⟩

/-! ## The parts of a bus cycle -/

theorem State.busWrite_inv {s t : State} {a : Word} {v : Byte} (h : s.Inv) (hw : s.busWrite a v = .ok t) : t.Inv := by
  refine ⟨State.busWrite_memoriesOk h.1 hw, ?_⟩
  have hpending := h.2.dmaPending
  unfold State.busWrite at hw
  cases hT : cpuTarget a <;> rw [hT] at hw
  case apu | apuStatus | pad2 => cases hw; exact (h.withApu (Apu.write_ok h.apu _ _)).2
  case ram | ppu | pad1 => cases hw; exact { h.2 with }
  case oamDma =>
    cases hw
    exact { h.2 with dmaPending := by unfold State.dmaStart; dsimp only; split <;> decide }
  case reserved | hole | prgRom => cases hw
  case prgRam =>
    dsimp only at hw
    split at hw
    · cases hw
    · cases hw; exact { h.2 with }

theorem State.busRead_inv {s t : State} {a : Word} {v : Byte} (h : s.Inv) (hr : s.busRead a = .ok (v, t)) : t.Inv := by
  unfold State.busRead at hr
  cases hT : cpuTarget a <;> rw [hT] at hr
  case ram | ppu | apu | oamDma | prgRom => cases hr; exact h
  case apuStatus => cases hr; exact h.withApu { h.apu with }
  case pad1 | pad2 => cases hr; exact h.frame h.2.dmaPending
  case reserved | hole => cases hr
  case prgRam =>
    dsimp only at hr
    split at hr
    · cases hr
    · cases hr; exact h

theorem State.driveBus_inv {s t : State} (h : s.Inv) (hd : s.driveBus = .ok t) : t.Inv := by
  unfold State.driveBus at hd
  split at hd
  · exact State.busWrite_inv h hd
  · split at hd
    · cases hd; exact h.withPpu { h.ppu with }
    · cases hd; exact h

theorem State.completeRead_inv {s t : State} {m : Master} (h : s.Inv) (hr : s.completeRead m = .ok t) : t.Inv := by
  unfold State.completeRead at hr
  split at hr
  · cases hr; exact h
  · split at hr
    · cases hr
    · next v u hu =>
      cases hr
      have hread := State.busRead_inv h hu
      refine hread.frame (k := u.ctl) ?_
      cases m <;> exact hread.2.dmaPending

theorem State.servePpuRead_inv {s t : State} (h : s.Inv) (hr : s.servePpuRead = .ok t) : t.Inv := by
  unfold State.servePpuRead at hr
  split at hr
  · split at hr
    · cases hr
    · cases hr; exact h.withPpu { h.ppu with }
  · cases hr; exact h

theorem State.servePpuWrite_inv {s t : State} (h : s.Inv) (hw : s.servePpuWrite = .ok t) : t.Inv := by
  unfold State.servePpuWrite at hw
  split at hw
  · split at hw
    · cases hw
      refine ⟨State.lostPpuWrite_memoriesOk h.1 _, ?_⟩
      unfold State.lostPpuWrite
      split
      · exact h.2
      · exact { h.2 with }
    · refine ⟨State.ppuBusWrite_memoriesOk h.1 hw, ?_⟩
      unfold State.ppuBusWrite at hw
      split at hw
      · cases hw
      · cases hw; exact { h.2 with }
  · cases hw; exact h

theorem State.ppuStep_inv {s t : State} (h : s.Inv) (ht : s.ppuStep = .ok t) : t.Inv := by
  unfold State.ppuStep at ht
  split at ht
  · cases ht
  · next p hp =>
    obtain ⟨u, hu, ht⟩ := andThen_eq_ok ht
    exact State.servePpuWrite_inv (State.servePpuRead_inv (h.withPpu (Ppu.step_ok h.ppu hp)) hu) ht

theorem State.ppuSteps_inv {s t : State} (h : s.Inv) (ht : s.ppuSteps = .ok t) : t.Inv := by
  obtain ⟨v, hv, ht⟩ := andThen_eq_ok ht
  obtain ⟨u, hu, hv⟩ := andThen_eq_ok hv
  exact State.ppuStep_inv (State.ppuStep_inv (State.ppuStep_inv h hu) hv) ht

theorem State.busCycle_inv {s t : State} {m : Master} (ht : s.busCycle m = .ok t) (h : s.Inv) : t.Inv := by
  obtain ⟨s1, s2, s3, h1, h2, h3, rfl⟩ := State.busCycle_eq_ok ht
  have hdots := State.ppuSteps_inv (State.driveBus_inv h h1) h2
  have hlatch : s2.latchNmi.Inv := hdots.frame (k := s2.ctl) hdots.2.dmaPending
  have hread := State.completeRead_inv hlatch h3
  have hticked := hread.withApu (Apu.step_ok hread.apu)
  exact hticked.frame (k := s3.ctl) hticked.2.dmaPending

/-! ## The step -/

/-- Keeping the invariant is a relation that every part of a step has. -/
theorem stepRel_inv : StepRel fun s t => s.Inv → t.Inv where
  refl _ h := h
  trans hst htu h := htu (hst h)
  withCpu s _ h := h.frame (k := s.ctl) h.2.dmaPending
  dmaStep s h := h.frame (k := s.ctl) (by
    have hpending := h.2.dmaPending
    show s.dma.pending - 1 ≤ 514
    omega)
  busCycle := State.busCycle_inv

/-- Settles O35: every part of a step keeps the invariant. -/
theorem stepKeepsTheInvariant : Obligations.StepKeepsTheInvariant := by
  intro s t h hstep
  exact stepRel_inv.step hstep h

/-- Settles O36: the power-on counters are all at the start of their ranges. -/
theorem resetHasTheInvariant : Obligations.ResetHasTheInvariant := by
  have counters : ∀ cart po audio, CountersOk (State.powerOn cart po audio) := by
    intro cart po audio
    constructor
    case writePos => exact Config.ringLen_pos
    case sampleCycles => exact lt_of_lt_of_le Nat.one_pos (Nat.le_max_left _ _)
    all_goals simp [State.powerOn, Ppu.powerOn, Apu.powerOn, Cells.wfFrom, Config.firTaps]
  refine ⟨⟨?_, counters _ _ _⟩, ?_⟩
  · constructor <;> decide
  · intro cart po audio s hs hmem
    unfold State.construct at hs
    split at hs
    · cases hs; exact ⟨hmem, counters _ _ _⟩
    · cases hs

end Sys2Proof.Machine
end

section
/-! PROOF. The arithmetic of the operations: bit by bit, by shifts, by counts, and what each leaves in N and Z (rules
R232, R236 to R240, R261 to R267, R270 to R288). -/

namespace Sys2Proof.Machine

/-! ## N and Z -/

theorem Flags.setNZ_eq (p : Flags) (v : Byte) : p.setNZ v = { p with n := v.getLsbD 7, z := decide (v = 0) } := by
  simp only [Flags.setNZ, BitVec.msb_eq_getLsbD_last]

/-- N and Z by the number a byte is. -/
theorem Flags.setNZ_toNat (p : Flags) (v : Byte) :
    p.setNZ v = { p with n := decide (128 ≤ v.toNat), z := decide (v.toNat = 0) } := by
  have hv := v.isLt
  have h := p.setNZ_ofNat v.toNat
  rwa [BitVec.ofNat_toNat, BitVec.setWidth_eq, Nat.mod_eq_of_lt hv] at h

/-! ## Logic and loads -/

/-- Settles O18: the model's logic operations are the bitwise ones, and a load moves the byte. -/
theorem logicOperationsAndLoads : Obligations.LogicOperationsAndLoads := by
  intro i op o s m hi hs hm
  obtain ⟨t, ht, hr⟩ := exec_readUse hi hs hm
  refine ⟨?_, ?_, ?_, ?_⟩
  · rintro (rfl | rfl | rfl)
    · exact ⟨t, _, ht, fun k _ => BitVec.getLsbD_and, hr.trans (by rw [ReadOp.run, opAnd, Flags.setNZ_eq])⟩
    · exact ⟨t, _, ht, fun k _ => BitVec.getLsbD_xor, hr.trans (by rw [ReadOp.run, opEor, Flags.setNZ_eq])⟩
    · exact ⟨t, _, ht, fun k _ => BitVec.getLsbD_or, hr.trans (by rw [ReadOp.run, opOra, Flags.setNZ_eq])⟩
  · rintro rfl
    exact ⟨t, ht, hr.trans (by rw [ReadOp.run, opLda, Flags.setNZ_eq])⟩
  · rintro rfl
    exact ⟨t, ht, hr.trans (by rw [ReadOp.run, opLdx, Flags.setNZ_eq])⟩
  · rintro rfl
    exact ⟨t, ht, hr.trans (by rw [ReadOp.run, opLdy, Flags.setNZ_eq])⟩

/-! ## Shifts, rotates and counts -/

theorem getLsbD_seven (m : Byte) : m.getLsbD 7 = decide (128 ≤ m.toNat) :=
  (BitVec.msb_eq_getLsbD_last m).symm.trans (BitVec.msb_eq_decide m)

theorem getLsbD_zero (m : Byte) : m.getLsbD 0 = decide (m.toNat % 2 = 1) := by
  rw [BitVec.getLsbD, Nat.testBit_zero]

theorem shiftLeft_one_eq (m : Byte) : m <<< 1 = BitVec.ofNat 8 (2 * m.toNat) := by
  apply BitVec.eq_of_toNat_eq
  rw [BitVec.toNat_shiftLeft, BitVec.toNat_ofNat, Nat.shiftLeft_eq, Nat.pow_one, Nat.mul_comm]

theorem shiftRight_one_eq (m : Byte) : m >>> 1 = BitVec.ofNat 8 (m.toNat / 2) := by
  have hm := m.isLt
  apply BitVec.eq_of_toNat_eq
  rw [BitVec.toNat_ushiftRight, BitVec.toNat_ofNat, Nat.shiftRight_eq_div_pow, Nat.pow_one, Nat.mod_eq_of_lt (by omega)]

/-- The carry enters bit 0, which the shift left clear. -/
theorem rotateLeft_eq (m : Byte) (c : Bool) :
    m <<< 1 ||| (BitVec.ofBool c).setWidth 8 = BitVec.ofNat 8 (2 * m.toNat + c.toNat) := by
  revert m c; decide

/-- The carry enters bit 7, which the shift left clear. -/
theorem rotateRight_eq (m : Byte) (c : Bool) :
    m >>> 1 ||| (BitVec.ofBool c).setWidth 8 <<< 7 = BitVec.ofNat 8 (m.toNat / 2 + 128 * c.toNat) := by
  revert m c; decide

/-- Settles O25: each operation's result is the number's, and N and Z are the result's. -/
theorem shiftsRotatesAndCounts : Obligations.ShiftsRotatesAndCounts := by
  intro op m p
  cases op
  case asl => simp only [RmwOp.run, rmwAsl, getLsbD_seven, shiftLeft_one_eq, Flags.setNZ_ofNat]
  case lsr => simp only [RmwOp.run, rmwLsr, getLsbD_zero, shiftRight_one_eq, Flags.setNZ_ofNat]
  case rol => simp only [RmwOp.run, rmwRol, getLsbD_seven, rotateLeft_eq, Flags.setNZ_ofNat]
  case ror => simp only [RmwOp.run, rmwRor, getLsbD_zero, rotateRight_eq, Flags.setNZ_ofNat]
  case inc =>
    have hinc : m + 1 = BitVec.ofNat 8 (m.toNat + 1) := by bv_omega
    simp only [RmwOp.run, rmwInc, hinc, Flags.setNZ_ofNat]
  case dec =>
    have hdec : m - 1 = BitVec.ofNat 8 (m.toNat + 255) := by bv_omega
    simp only [RmwOp.run, rmwDec, hdec, Flags.setNZ_ofNat]

/-- Settles O24: the accumulator shape. -/
theorem accumulatorForms : Obligations.AccumulatorForms := by
  intro i op s hi hs hr
  rw [exec_form, hi]
  obtain ⟨t, ht, hregs, hquiet, huntouched, -⟩ := rmwAccumulator_next op hs hr
  exact ⟨t, ht, hregs, hquiet.peek, huntouched, hquiet.cyc⟩

/-! ## Single bytes -/

/-- Settles O26: the single-byte shape. -/
theorem singleByteInstructions : Obligations.SingleByteInstructions := by
  intro i op s hi hs hr
  rw [exec_form, hi]
  obtain ⟨t, ht, hregs, hquiet, huntouched, hboundary, -⟩ := single_next op hs hr
  exact ⟨t, ht, hregs, hquiet.peek, huntouched, hboundary, hquiet.cyc⟩

/-- Settles O27: the operation of each, with N and Z by the number the byte is. -/
theorem flagsCountsAndTransfers : Obligations.FlagsCountsAndTransfers := by
  intro s hs hr
  have runs : ∀ (i : Instr) (op : SingleOp) (r : Regs), formOf i = .single op → op.run s.cpu.regs = r →
      ∃ t, exec i s = .next t ∧ t.cpu.regs = r := by
    rintro i op _ hi rfl
    obtain ⟨t, ht, hregs, -⟩ := singleByteInstructions i op s hi hs hr
    exact ⟨t, ht, hregs⟩
  refine ⟨runs _ _ _ rfl rfl, runs _ _ _ rfl rfl, runs _ _ _ rfl rfl, runs _ _ _ rfl rfl, runs _ _ _ rfl rfl,
    runs _ _ _ rfl rfl, runs _ _ _ rfl rfl, runs _ _ _ rfl rfl, ?_, ?_, ?_, ?_, ?_, ?_, ?_, ?_, ?_,
    runs _ _ _ rfl rfl⟩
  all_goals exact runs _ _ _ rfl (by simp only [SingleOp.run, Flags.setNZ_toNat])

/-! ## The shapes of read-and-use -/

/-- Settles O12: the read-and-use shape at a readable address. -/
theorem readUseInstructions : Obligations.ReadUseInstructions := by
  intro i op o s a hi hs ha hr hd
  rw [exec_form, hi]
  obtain ⟨t, ht, hregs, hvalue, hquiet, huntouched, hboundary, hdeferred⟩ := readUse_next (op := op) hs ha hr hd
  exact ⟨t, ht, hregs, hvalue, hquiet.peek, huntouched, hboundary, hdeferred, hquiet.cyc⟩

/-- Settles O13: the read-and-use shape on an immediate byte. -/
theorem readUseImmediate : Obligations.ReadUseImmediate := by
  intro i op b s hi
  rw [exec_form, hi]
  exact readUse_imm op b s

end Sys2Proof.Machine
end

section
/-! PROOF. The fetch and the poll: a step at the boundary runs the instruction at PC, stops on an illegal opcode, or takes
the interrupt the poll found; RESET asserted abandons the instruction (rules R184 to R186, R201, R530). -/

namespace Sys2Proof.Machine

/-! ## Rows selected by one opcode byte -/

/-- The operand bytes choose neither whether there is a row nor its shape. -/
theorem opcodeRow_shape {op b1 b2 : Byte} {i : Instr} (c1 c2 : Byte) (h : opcodeRow op b1 b2 = some i) :
    ∃ j, opcodeRow op c1 c2 = some j ∧ j.operandBytes = i.operandBytes ∧ fetchCount j = fetchCount i ∧
      (formOf j).table = (formOf i).table := by
  unfold opcodeRow at h
  split at h
  case h_152 => cases h
  all_goals
    next hop =>
    cases h
    apply Exists.intro
    refine ⟨?_, ?_, ?_, ?_⟩
    · unfold opcodeRow
      rw [hop]
      rfl
    all_goals rfl

/-- Well-formed instructions of one encoding are one instruction. -/
theorem encode_injective {i j : Instr} (hi : i.wellFormed = true) (hj : j.wellFormed = true)
    (h : encode j = encode i) : j = i := by
  have hdecode := decodeAfterEncode i [] hi
  rw [← h, decodeAfterEncode j [] hj] at hdecode
  cases hdecode
  rfl

/-- A row is selected by the bytes of its operand alone. -/
theorem opcodeRow_of_operand {op b1 b2 c1 c2 : Byte} {i : Instr} (h : opcodeRow op b1 b2 = some i)
    (hc : [c1, c2].take i.operandBytes = [b1, b2].take i.operandBytes) : opcodeRow op c1 c2 = some i := by
  obtain ⟨j, hj, hbytes, -⟩ := opcodeRow_shape c1 c2 h
  obtain ⟨wfi, opi, operandi⟩ := opcodeRow_eq_some h
  obtain ⟨wfj, opj, operandj⟩ := opcodeRow_eq_some hj
  have hij : j = i := encode_injective wfi wfj (by rw [encode, encode, opi, opj, operandi, operandj, hbytes, hc])
  rw [hj, hij]

/-! ## Fetch cycles -/

/-- `n` program bytes fetched: PC is past them, nothing else of the program's state has changed, `n` ticks later. -/
structure Fetched (n : Nat) (s t : State) : Prop where
  quiet : Quiet n s t
  regs : t.cpu.regs = { s.cpu.regs with pc := s.cpu.regs.pc + BitVec.ofNat 16 n }
  deferred : t.cpu.deferred = s.cpu.deferred
  pendingReset : t.cpu.pendingReset = s.cpu.pendingReset
  resetLine : t.cpu.resetLine = s.cpu.resetLine

theorem Fetched.trans {m n : Nat} {s t u : State} (h : Fetched m s t) (k : Fetched n t u) : Fetched (m + n) s u where
  quiet := h.quiet.trans k.quiet
  regs := by
    rw [k.regs, h.regs, BitVec.ofNat_add, ← BitVec.add_assoc]
  deferred := k.deferred.trans h.deferred
  pendingReset := k.pendingReset.trans h.pendingReset
  resetLine := k.resetLine.trans h.resetLine

theorem Fetched.latchOpcode {n : Nat} {s t : State} (h : Fetched n s t) : Fetched n s t.latchOpcode :=
  ⟨h.quiet.withCpu _, h.regs, h.deferred, h.pendingReset, h.resetLine⟩

theorem Fetched.untouched {n : Nat} {s t : State} (h : Fetched n s t) : Untouched s t :=
  ⟨h.quiet.vram, h.quiet.oam, h.quiet.palette, h.quiet.written, h.quiet.cart, h.quiet.fault, h.quiet.dma,
    h.pendingReset, h.resetLine⟩

theorem Fetched.canRun {n : Nat} {s t : State} (h : Fetched n s t) (hs : s.CanRun) : t.CanRun :=
  ⟨h.quiet.busReady hs.1, h.deferred.trans hs.2⟩

/-- A row that consumes a program byte of memory. -/
theorem cycle_fetch {s : State} {r : Row} {b : Byte} (hs : s.BusReady) (hr : r = rowFetch1 ∨ r = rowFetch2)
    (hb : s.peek s.cpu.regs.pc = some b) : ∃ t, s.cycle r = .ok t ∧ Fetched 1 s t ∧ t.cpu.db = b := by
  have hdrive : (drives r s).rw = .read ∧ (drives r s).ab = s.cpu.regs.pc := by obtain rfl | rfl := hr <;> exact ⟨rfl, rfl⟩
  obtain ⟨t, ht, hread⟩ := State.cycle_read hs hdrive.1 (by rw [hdrive.2]; exact State.readable_of_peek hb)
  obtain ⟨v, n, p, q, hcpu⟩ := hread.cpu
  refine ⟨t, ht, ?_, hread.value b (by rw [State.withCpu_cpu, hdrive.2]; exact hb)⟩
  obtain rfl | rfl := hr <;> exact ⟨hread.quiet, by rw [hcpu]; rfl, by rw [hcpu]; rfl, by rw [hcpu]; rfl, by rw [hcpu]; rfl⟩

/-- The bytes of code after the first `n`. -/
theorem Fetched.codeAt {n : Nat} {s t : State} {as bs : List Byte} (h : Fetched n s t) (hs : s.CodeAt (as ++ bs))
    (hn : as.length = n) : t.CodeAt bs := by
  intro k hk
  have hcode := hs (n + k) (by rw [List.length_append]; omega)
  rw [List.getElem_append_right (by omega)] at hcode
  rw [h.quiet.peek, h.regs]
  simp only [hn, Nat.add_sub_cancel_left] at hcode
  rw [← hcode, BitVec.ofNat_add, ← BitVec.add_assoc]

theorem State.CodeAt.head {s : State} {b : Byte} {bs : List Byte} (h : s.CodeAt (b :: bs)) :
    s.peek s.cpu.regs.pc = some b := by
  have h0 := h 0 (Nat.succ_pos _)
  rwa [BitVec.add_zero] at h0

/-! ## The poll -/

theorem Cpu.pollKind_ne_brk (c : Cpu) : c.pollKind ≠ .brk := by
  unfold Cpu.pollKind
  split
  · simp
  · split
    · simp
    · split <;> simp

/-- The poll fixes the kind it finds; it leaves no reset pending, and changes nothing else that a program sees. -/
theorem Cpu.poll_frame (c : Cpu) :
    c.poll.intKind = c.pollKind ∧ c.poll.pendingReset = false ∧ c.poll.regs = c.regs ∧ c.poll.deferred = c.deferred ∧
      c.poll.resetLine = c.resetLine := by
  have hreset : c.pollKind ≠ .reset → c.pendingReset = false := by
    unfold Cpu.pollKind
    cases c.pendingReset <;> simp
  have hbrk := c.pollKind_ne_brk
  unfold Cpu.poll
  cases hk : c.pollKind
  case reset => exact ⟨rfl, rfl, rfl, rfl, rfl⟩
  case brk => exact absurd hk hbrk
  all_goals exact ⟨rfl, hreset (by rw [hk]; simp), rfl, rfl, rfl⟩

/-- The opcode fetch with no interrupt to inject consumes the byte. -/
theorem Cpu.fetchOpcode_instruction {c : Cpu} (h : c.intKind = .none) :
    c.fetchOpcode = { c.rdPcInc with sync := true, t := 2 } := by
  unfold Cpu.fetchOpcode; rw [if_pos h]

/-- The opcode fetch of an injected interrupt is a dummy read. -/
theorem Cpu.fetchOpcode_interrupt {c : Cpu} (h : c.intKind ≠ .none) :
    c.fetchOpcode = { c.rdPc with sync := true, t := 2 } := by
  unfold Cpu.fetchOpcode; rw [if_neg h]

/-- The T1 tick when the poll finds nothing: the opcode byte is on `db`. -/
theorem fetchTick_instruction {s : State} {b : Byte} (hs : s.CanRun) (hp : s.NoInterrupt)
    (hb : s.peek s.cpu.regs.pc = some b) :
    ∃ u, s.fetchTick = .ok u ∧ Fetched 1 s u ∧ u.cpu.intKind = .none ∧ u.cpu.db = b := by
  obtain ⟨u, v, n, p, q, hu, hquiet, hcpu, hv⟩ := fetchTick_next hs.1 hs.2 (State.readable_of_peek hb)
  set c : Cpu := { s.cpu with sync := false } with hc
  obtain ⟨hkind, hreset, hregs, hdeferred, hline⟩ := c.poll_frame
  have hnone : c.pollKind = .none := by
    obtain ⟨h1, h2, h3⟩ := hp
    unfold Cpu.pollKind
    rcases h3 with h3 | h3 <;> simp [hc, h1, h2, h3]
  have hkind' := hkind.trans hnone
  rw [Cpu.fetchOpcode_instruction hkind'] at hcpu
  refine ⟨u, hu, ⟨hquiet, ?_, ?_, ?_, ?_⟩, ?_, ?_⟩
  · rw [hcpu]
    show { c.poll.regs with pc := c.poll.regs.pc + 1 } = _
    rw [hregs]
    rfl
  · rw [hcpu]; exact hdeferred
  · rw [hcpu]; exact hreset.trans hp.1.symm
  · rw [hcpu]; exact hline
  · rw [hcpu]; exact hkind'
  · rw [hcpu]; exact hv b hb

/-- The T1 tick when the poll finds an interrupt: a dummy read. -/
theorem fetchTick_interrupt {s : State} {k : IntKind} (hs : s.CanRun) (hr : s.readable s.cpu.regs.pc = true)
    (hk : s.cpu.pollKind = k) (hne : k ≠ .none) :
    ∃ u, s.fetchTick = .ok u ∧ Quiet 1 s u ∧ u.cpu.intKind = k ∧ u.cpu.regs = s.cpu.regs ∧
      u.cpu.pendingReset = false ∧ u.cpu.resetLine = s.cpu.resetLine := by
  obtain ⟨u, v, n, p, q, hu, hquiet, hcpu, -⟩ := fetchTick_next hs.1 hs.2 hr
  obtain ⟨hkind, hreset, hregs, -, hline⟩ := ({ s.cpu with sync := false } : Cpu).poll_frame
  have hkind' : ({ s.cpu with sync := false } : Cpu).poll.intKind = k := hkind.trans hk
  rw [Cpu.fetchOpcode_interrupt (by rw [hkind']; exact hne)] at hcpu
  refine ⟨u, hu, hquiet, ?_, ?_, ?_, ?_⟩ <;> rw [hcpu]
  exacts [hkind', hregs, hreset, hline]

/-! ## The step at the boundary -/

theorem State.AtBoundary.canRun {s : State} (h : s.AtBoundary) (hs : s.PpuSafe) : s.CanRun := by
  obtain ⟨-, hdeferred, -, -, hdma⟩ := h
  exact ⟨⟨hdma, hs⟩, hdeferred⟩

/-- A step whose T1 tick completes. -/
theorem step_of_fetchTick {s u : State} (h : s.AtBoundary) (hu : s.fetchTick = .ok u) :
    step s = Result.finish u.afterPoll := by
  rw [step_boundary h]
  unfold State.instrStep
  rw [hu]

theorem State.afterPoll_instruction {u v : State} {i : Instr} (hk : u.cpu.intKind = .none)
    (hf : u.fetchInstr = .ok (i, v)) : u.afterPoll = exec i v := by
  unfold State.afterPoll
  rw [hk, hf]

theorem State.afterPoll_interrupt {u : State} {k : IntKind} (hk : u.cpu.intKind = k) (hne : k ≠ .none) :
    u.afterPoll = ((u.withCpu { u.cpu with ir := 0 }).takeInterrupt k).result := by
  unfold State.afterPoll
  rw [hk]
  cases k
  case none => exact absurd rfl hne
  all_goals rfl

/-- Nothing is left of a DMA to run. -/
theorem Result.finish_next {t : State} (h : t.dma.active = false) : Result.finish (.next t) = .next t := by
  show t.finishDma.result = _
  rw [State.finishDma_idle h]
  rfl

/-- The operand fetch of the instruction whose bytes stand at PC. -/
theorem fetchInstr_of_code {u : State} {bs : List Byte} {i : Instr} (hu : u.CanRun) (hcode : u.CodeAt bs)
    (hrow : opcodeRow u.cpu.db (bs.getD 0 0) (bs.getD 1 0) = some i) (hlen : bs.length = i.operandBytes) :
    ∃ v, u.fetchInstr = .ok (i, v) ∧ Fetched (fetchCount i) u v := by
  have hready : u.latchOpcode.BusReady := hu.1
  have hlatch : Fetched 0 u u.latchOpcode :=
    ⟨(Quiet.refl hu.1.2).withCpu _, by rw [BitVec.add_zero]; rfl, rfl, rfl, rfl⟩
  obtain ⟨j, hj, -, hcount, -⟩ := opcodeRow_shape 0 0 hrow
  match bs, hcode, hrow, hlen with
  | [], hcode, hrow, hlen =>
    have hzero : fetchCount i = 0 := by
      cases i <;> first | exact hlen.symm | cases hlen
    have hji := hj.symm.trans (opcodeRow_of_operand (c1 := 0) (c2 := 0) hrow rfl)
    rw [State.fetchInstr_zero hj (hcount.trans hzero), hzero]
    cases hji
    exact ⟨_, rfl, hlatch⟩
  | [b1], hcode, hrow, hlen =>
    have hone : fetchCount i = 1 := by
      cases i <;> first | exact hlen.symm | cases hlen
    obtain ⟨v, hv, hfetch, hdb⟩ := cycle_fetch (s := u.latchOpcode) hready (.inl rfl) hcode.head
    rw [State.fetchInstr_one hj (hcount.trans hone), hv, hone]
    refine ⟨v, ?_, hlatch.trans hfetch⟩
    dsimp only
    rw [hdb, opcodeRow_of_operand (c1 := b1) hrow (by rw [← hlen]; rfl)]
    rfl
  | [b1, b2], hcode, hrow, hlen =>
    obtain ⟨v, hv, hfetch, hdb⟩ := cycle_fetch (s := u.latchOpcode) hready (.inl rfl) hcode.head
    have hcode2 : v.CodeAt [b2] := hfetch.codeAt (as := [b1]) hcode rfl
    obtain ⟨w, hw, hfetch2, hdb2⟩ := cycle_fetch (hfetch.quiet.busReady hready) (.inr rfl) hcode2.head
    have hrow' : opcodeRow u.cpu.db b1 b2 = some i := hrow
    obtain hc | hc | hc := fetchCount_le i
    · exfalso; cases i <;> first | cases hlen; done | cases hc
    · rw [State.fetchInstr_one hj (hcount.trans hc), hv, hc]
      refine ⟨v, ?_, hlatch.trans hfetch⟩
      dsimp only
      rw [hdb, hcode2.head]
      show Except.ok ((opcodeRow u.cpu.db b1 b2).getD j, v) = _
      rw [hrow']; rfl
    · rw [State.fetchInstr_two hj (hcount.trans hc), hv, hc]
      dsimp only
      rw [hw]
      refine ⟨w, ?_, (hlatch.trans hfetch).trans hfetch2⟩
      dsimp only
      rw [hdb, hdb2, hrow']; rfl
  | _ :: _ :: _ :: _, _, _, hlen =>
    have hle := i.operandBytes_le
    simp only [List.length_cons] at hlen
    omega

/-- Settles O4: the T1 tick puts the opcode on `db`, and the operand fetch reads the rest. -/
theorem stepRunsTheDecodedInstruction : Obligations.StepRunsTheDecodedInstruction := by
  intro s bs i hb hsafe hp hcode hdecode
  have hrun := hb.canRun hsafe
  obtain ⟨op, bs', rfl, hrow, hle, hdrop⟩ := decode_eq_ok hdecode
  have hlen : bs'.length = i.operandBytes := le_antisymm (List.drop_eq_nil_iff.1 hdrop.symm) hle
  obtain ⟨u, hu, hfetch, hkind, rfl⟩ := fetchTick_instruction hrun hp hcode.head
  obtain ⟨v, hv, hfetch'⟩ :=
    fetchInstr_of_code (hfetch.canRun hrun) (hfetch.codeAt (as := [u.cpu.db]) hcode rfl) hrow hlen
  have hall := hfetch.trans hfetch'
  refine ⟨v, ?_, hall.regs, hall.quiet.peek, hall.untouched, ?_, hall.canRun hrun⟩
  · rw [step_of_fetchTick hb hu, State.afterPoll_instruction hkind hv]
  · rw [hall.quiet.cyc, Nat.add_assoc]

/-- Settles O5: the rows of the table are counted by their opcode bytes, and the fetch stops at a byte that has none. -/
theorem illegalOpcodesStop : Obligations.IllegalOpcodesStop := by
  refine ⟨fun op b1 b2 => ?_, fun s op hb hsafe hp hcode hop => ?_⟩
  · have hnone : opcodeRow op b1 b2 = none ↔ opcodeRow op 0 0 = none := by
      constructor
      all_goals
        intro h
        refine Option.eq_none_iff_forall_not_mem.2 fun i hi => ?_
        obtain ⟨j, hj, -⟩ := opcodeRow_shape _ _ hi
        rw [h] at hj
        cases hj
    rw [hnone]
    clear hnone
    revert op
    decide +kernel
  · obtain ⟨u, hu, hfetch, hkind, rfl⟩ := fetchTick_instruction (hb.canRun hsafe) hp hcode.head
    rw [step_of_fetchTick hb hu]
    unfold State.afterPoll
    rw [hkind, State.fetchInstr_illegal hop, hfetch.regs]
    show Host.Outcome.fault (Fault.illegalOpcode u.cpu.db (s.cpu.regs.pc + 1 - 1)) = _
    rw [BitVec.add_sub_cancel]

/-- Settles O6: both look at the sticky fault first. -/
theorem faultIsFinal : Obligations.FaultIsFinal := by
  intro s f h
  unfold step State.tick
  rw [h]
  exact ⟨rfl, rfl⟩

/-! ## Interrupts at the boundary -/

/-- The stack after three pushes, read through the address map: the three bytes, and no other byte changed. -/
theorem Quiet.pushed3_peek {n : Nat} {s t : State} {x a b c : Byte} (hm : MemoriesOk s)
    (h : Quiet n (s.withRam (pushed3 s.ram x a b c)) t) :
    t.peek (stackAddr x) = some a ∧ t.peek (stackAddr (x - 1)) = some b ∧ t.peek (stackAddr (x - 2)) = some c ∧
      SameBytesExcept [stackCell x 0, stackCell x 1, stackCell x 2] s t := by
  obtain ⟨ha, hb, hc⟩ := pushed3_reads (Memory.wfSize_wf hm.ram) x a b c
  have htwo : x - 2 = x - 1 - 1 := by bv_omega
  have hram : t.ram = pushed3 s.ram x a b c := h.ram
  refine ⟨?_, ?_, ?_, fun u hu => (h.peek u).trans (pushed3_same u hu)⟩
  · rw [State.peek_stack, hram, ha]
  · rw [State.peek_stack, hram, hb]
  · rw [State.peek_stack, htwo, hram, hc]

/-- Settles O9: the poll finds the pending reset, and its sequence reads where the others push. -/
theorem firstStepIsTheResetSequence : Obligations.FirstStepIsTheResetSequence := by
  intro cart po audio hchr hr
  have hb : (State.powerOn cart po audio).AtBoundary := ⟨rfl, rfl, rfl, rfl, rfl⟩
  have hsafe : (State.powerOn cart po audio).PpuSafe := ⟨hchr, rfl, .inl rfl⟩
  obtain ⟨u, hu, hquiet, hkind, hregs, hreset, -⟩ :=
    fetchTick_interrupt (k := .reset) (hb.canRun hsafe) hr rfl (by simp)
  obtain ⟨t, l, h, ht, hl, hh, hregs', -, -, -, hreset', -, hquiet'⟩ :=
    takeInterrupt_reset (s := u.withCpu { u.cpu with ir := 0 }) (hquiet.busReady (hb.canRun hsafe).1)
      (by show u.readable u.cpu.regs.pc = true; rw [hregs, hquiet.readable]; exact hr)
  have hall : Quiet 7 (State.powerOn cart po audio) t := (hquiet.withCpu _).trans hquiet'
  refine ⟨t, l, h, ?_, ?_, ?_, ?_, hreset'.trans hreset, hall.ram, hall.prgRam, hall.cyc⟩
  · rw [step_of_fetchTick hb hu, State.afterPoll_interrupt hkind (by simp), ht]
    exact Result.finish_next (by rw [hall.dma]; rfl)
  · rw [← hl]; exact (hquiet.peek _).symm
  · rw [← hh]; exact (hquiet.peek _).symm
  · rw [hregs', State.withCpu_cpu, hregs]; rfl

/-- Settles O10: the poll finds the NMI, or else the IRQ, and its sequence pushes three bytes. -/
theorem interruptSequence : Obligations.InterruptSequence := by
  intro s v hb hsafe hm hr hreset hpoll
  obtain ⟨k, hk, hv, hirq, hbrk, hnone⟩ :
      ∃ k, s.cpu.pollKind = k ∧ vectorOf k = v ∧ k ≠ .reset ∧ k ≠ .brk ∧ k ≠ .none := by
    unfold Cpu.pollKind
    obtain ⟨h1, rfl⟩ | ⟨h1, h2, h3, rfl⟩ := hpoll
    · exact ⟨.nmi, by simp [hreset, h1], rfl, by simp, by simp, by simp⟩
    · exact ⟨.irq, by simp [hreset, h1, h2, h3], rfl, by simp, by simp, by simp⟩
  subst hv
  have hrun := hb.canRun hsafe
  obtain ⟨u, hu, hquiet, hkind, hregs, hreset', hline⟩ := fetchTick_interrupt hrun hr hk hnone
  obtain ⟨t, l, h, ht, hl, hh, hregs', -, -, -, htreset, htline, hquiet'⟩ :=
    takeInterrupt_next (s := u.withCpu { u.cpu with ir := 0 }) (k := k) (hquiet.busReady hrun.1)
      (by show u.readable u.cpu.regs.pc = true; rw [hregs, hquiet.readable]; exact hr) hirq
  simp only [State.withCpu_cpu, State.withCpu_ram, hregs, hbrk, if_false, decide_false, hquiet.ram] at hquiet' hregs'
  have hall : Quiet 7 (s.withRam (pushed3 s.ram s.cpu.regs.s (hiByte s.cpu.regs.pc) (loByte s.cpu.regs.pc)
      (s.cpu.regs.p.toByte false))) t := (hquiet.withCpu _).trans_ram hquiet'
  obtain ⟨h1, h2, h3, hsame⟩ := hall.pushed3_peek hm
  refine ⟨t, l, h, ?_, ?_, ?_, hregs', h1, h2, h3, hsame, ?_, hall.cyc⟩
  · rw [step_of_fetchTick hb hu, State.afterPoll_interrupt hkind hnone, ht]
    exact Result.finish_next (by rw [hall.dma]; exact hrun.1.1)
  · rw [← hl]; exact (hquiet.peek _).symm
  · rw [← hh]; exact (hquiet.peek _).symm
  · exact ⟨hall.vram, hall.oam, hall.palette, hall.written, hall.cart, hall.fault, hall.dma,
      (htreset.trans hreset').trans hreset.symm, htline.trans hline⟩

/-- Settles O11: ResetSample abandons the instruction, and the T1 step takes the reset it leaves pending. -/
theorem resetLineAbandonsTheInstruction : Obligations.ResetLineAbandonsTheInstruction := by
  intro s hfault hdma hsafe hline hr
  set c : Cpu := { s.cpu.resetSample with sync := false } with hc
  obtain ⟨hkind, hreset, hregs, hdeferred, -⟩ := c.poll_frame
  have hkind' : c.poll.intKind = .reset := hkind
  have hstep : s.cpu.step = .ok { c.poll.rdPc with sync := true, t := 2 } := by
    unfold Cpu.step
    rw [if_pos hline]
    show (if (1 : Nat) = 1 then Except.ok c.stepT1 else _) = _
    rw [if_pos rfl]
    unfold Cpu.stepT1
    rw [Cpu.runDeferred_none (by rfl), Cpu.fetchOpcode_interrupt (by rw [hkind']; simp)]
  have hpc : c.poll.regs.pc = s.cpu.regs.pc := by rw [hregs]; rfl
  obtain ⟨t, ht, hread⟩ := State.busCycle_read (s := s.withCpu { c.poll.rdPc with sync := true, t := 2 }) hsafe rfl
    (by show s.readable c.poll.regs.pc = true; rw [hpc]; exact hr)
  obtain ⟨v, n, p, q, hcpu⟩ := hread.cpu
  refine ⟨t, ?_, ?_, ?_, ?_, ?_, ?_, ?_, hread.quiet.peek, hread.cyc⟩
  · unfold step
    rw [hfault]
    dsimp only
    rw [if_pos (.inl hline)]
    unfold State.tick
    rw [hfault, hdma, hstep]
    dsimp only
    rw [if_neg Bool.false_ne_true, ht]
    rfl
  all_goals rw [hcpu]
  exacts [hregs, hkind', rfl, hdeferred, hreset, rfl]

end Sys2Proof.Machine
end

section
/-! PROOF. Stores, read-modify-writes, and the accesses that stop (rules R95, R102, R103, R230, R250, R260, R351). -/

namespace Sys2Proof.Machine

/-! ## Stores -/

/-- Settles O20: the store shape, and what a write to one cell leaves. -/
theorem storeInstructions : Obligations.StoreInstructions := by
  intro i r o s a hi hs hm ha hw hd
  rw [exec_form, hi]
  obtain ⟨t, ht, hregs, hstored, huntouched, -, -, -, hcyc⟩ := store_next (r := r) hs ha hw hd
  refine ⟨t, r.value s.cpu.regs, ht, ?_, hregs, ?_, ?_, huntouched, hcyc⟩
  · cases r <;> rfl
  · intro hmem b hb
    exact hstored.peek_same (Memory.wfSize_wf hm.ram) (Memory.wfSize_wf hm.prgRam) hw hmem hb
  · intro b hb
    exact hstored.peek_other fun e => hb (by rw [e]; exact List.mem_singleton.2 rfl)

/-! ## Three dots, whatever they do -/

theorem Ppu.Held.refl (p : Ppu) : p.Held p := p.endStrobes_held.trans (by constructor <;> rfl)

/-- One dot that completes: the register access, and nothing else that a program sees in the PPU or the CPU. -/
theorem State.ppuStep_held {s t : State} (h : s.ppuStep = .ok t) :
    s.ppu.cpuAccess.Held t.ppu ∧ t.ppu.access = false ∧ t.cpu = s.cpu := by
  unfold State.ppuStep at h
  obtain ⟨q, hq, hk⟩ | ⟨-, -, he⟩ := s.ppu.step_cases
  · rw [hq] at h
    obtain ⟨u, hu, ht⟩ := andThen_eq_ok h
    have hread : q.Held u.ppu ∧ u.ppu.access = q.access ∧ u.cpu = s.cpu := by
      unfold State.servePpuRead at hu
      split at hu
      · split at hu
        · cases hu
        · cases hu; exact ⟨by constructor <;> rfl, rfl, rfl⟩
      · cases hu; exact ⟨.refl q, rfl, rfl⟩
    have hwrite : u.ppu.Held t.ppu ∧ t.ppu.access = u.ppu.access ∧ t.cpu = u.cpu := by
      unfold State.servePpuWrite at ht
      split at ht
      · split at ht
        · cases ht
          unfold State.lostPpuWrite
          split
          · exact ⟨.refl _, rfl, rfl⟩
          · exact ⟨by constructor <;> rfl, rfl, rfl⟩
        · unfold State.ppuBusWrite at ht
          split at ht
          · cases ht
          · cases ht; exact ⟨.refl _, rfl, rfl⟩
      · cases ht; exact ⟨.refl _, rfl, rfl⟩
    obtain ⟨hr, hra, hrc⟩ := hread
    obtain ⟨hw, hwa, hwc⟩ := hwrite
    exact ⟨hk.held.trans (hr.trans hw), (hwa.trans hra).trans (hk.access.trans s.ppu.cpuAccess_access), hwc.trans hrc⟩
  · rw [he] at h; cases h

/-- Tick step 3 that completes: the register access of its first dot. -/
theorem State.ppuSteps_held {s t : State} (h : s.ppuSteps = .ok t) :
    s.ppu.cpuAccess.Held t.ppu ∧ t.ppu.access = false ∧ t.cpu = s.cpu := by
  obtain ⟨v, hv, ht⟩ := andThen_eq_ok h
  obtain ⟨u, hu, hv⟩ := andThen_eq_ok hv
  obtain ⟨h1, a1, c1⟩ := State.ppuStep_held hu
  obtain ⟨h2, a2, c2⟩ := State.ppuStep_held hv
  obtain ⟨h3, a3, c3⟩ := State.ppuStep_held ht
  rw [Ppu.cpuAccess_idle a1] at h2
  rw [Ppu.cpuAccess_idle a2] at h3
  exact ⟨h1.trans ((u.ppu.endStrobes_held.trans h2).trans (v.ppu.endStrobes_held.trans h3)), a3,
    (c3.trans c2).trans c1⟩

/-! ## OAMDATA -/

theorem Ppu.cpuAccess_readOamData {p : Ppu} (ha : p.access = true) (hr : p.cpuRw = .read) (hk : p.cpuReg = 4) :
    p.cpuAccess.cpuData = p.oam.read p.oamAddr.toNat ∧ p.cpuAccess.oam = p.oam ∧ p.cpuAccess.oamAddr = p.oamAddr := by
  rw [Ppu.cpuAccess_busy ha]
  unfold Ppu.registerAccess
  rw [show ({ p.endStrobes with access := false } : Ppu).cpuRw = .read from hr,
    show ({ p.endStrobes with access := false } : Ppu).cpuReg = 4 from hk]
  exact ⟨rfl, rfl, rfl⟩

theorem Ppu.cpuAccess_writeOamData {p : Ppu} (ha : p.access = true) (hr : p.cpuRw = .write) (hk : p.cpuReg = 4) :
    p.cpuAccess.oam = p.oam.write p.oamAddr.toNat p.cpuData ∧ p.cpuAccess.oamAddr = p.oamAddr + 1 := by
  rw [Ppu.cpuAccess_busy ha]
  unfold Ppu.registerAccess
  rw [show ({ p.endStrobes with access := false } : Ppu).cpuRw = .write from hr,
    show ({ p.endStrobes with access := false } : Ppu).cpuReg = 4 from hk]
  exact ⟨rfl, rfl⟩

/-- A bus cycle that reads OAMDATA puts the byte at OAMADDR on `db` (rule R351). -/
theorem busCycle_readOamData {s t : State} {m : Master} (h : s.busCycle m = .ok t) (hr : s.cpu.rw = .read)
    (ha : cpuTarget s.cpu.ab = .ppu 4) :
    t.cpu.db = s.ppu.oam.read s.ppu.oamAddr.toNat ∧ t.ppu.oam = s.ppu.oam ∧ t.ppu.oamAddr = s.ppu.oamAddr := by
  obtain ⟨s1, s2, s3, h1, h2, h3, rfl⟩ := State.busCycle_eq_ok h
  obtain ⟨hheld, -, hcpu⟩ := State.ppuSteps_held h2
  unfold State.driveBus at h1
  rw [hr] at h1
  simp only [ha] at h1
  cases h1
  obtain ⟨hdata, hoam, haddr⟩ := Ppu.cpuAccess_readOamData
    (p := { s.ppu with cpuReg := 4, cpuRw := .read, access := true }) rfl rfl rfl
  have hrw : s2.latchNmi.cpu.rw = .read := by show s2.cpu.rw = _; rw [hcpu]; exact hr
  have hab : s2.latchNmi.cpu.ab = s.cpu.ab := by show s2.cpu.ab = _; rw [hcpu]
  unfold State.completeRead State.busRead at h3
  simp only [hrw, hab, ha] at h3
  cases h3
  exact ⟨hheld.cpuData.trans hdata, hheld.oam.trans hoam, hheld.oamAddr.trans haddr⟩

/-- A bus cycle that writes OAMDATA puts the byte at OAMADDR, which moves on (rule R351). -/
theorem busCycle_writeOamData {s t : State} {m : Master} (h : s.busCycle m = .ok t) (hr : s.cpu.rw = .write)
    (ha : cpuTarget s.cpu.ab = .ppu 4) :
    t.ppu.oam = s.ppu.oam.write s.ppu.oamAddr.toNat s.cpu.db ∧ t.ppu.oamAddr = s.ppu.oamAddr + 1 := by
  obtain ⟨s1, s2, s3, h1, h2, h3, rfl⟩ := State.busCycle_eq_ok h
  obtain ⟨hheld, -, hcpu⟩ := State.ppuSteps_held h2
  unfold State.driveBus at h1
  rw [hr] at h1
  dsimp only at h1
  rw [busWrite_ppu s _ ha] at h1
  cases h1
  obtain ⟨hoam, haddr⟩ := Ppu.cpuAccess_writeOamData
    (p := { s.ppu with cpuReg := 4, cpuData := s.cpu.db, cpuRw := .write, access := true }) rfl rfl rfl
  have hrw : s2.latchNmi.cpu.rw = .write := by show s2.cpu.rw = _; rw [hcpu]; exact hr
  unfold State.completeRead at h3
  simp only [hrw] at h3
  cases h3
  exact ⟨hheld.oam.trans hoam, hheld.oamAddr.trans haddr⟩

/-- A row that reads OAMDATA. -/
theorem State.cycle_readOamData {s : State} {r : Row} {c : Cpu} (hs : s.BusReady) (hc : drives r s = c)
    (hr : c.rw = .read) (ha : cpuTarget c.ab = .ppu 4) :
    ∃ t n p q, s.cycle r = .ok t ∧ t.BusReady ∧
      t.cpu = { c with db := s.ppu.oam.read s.ppu.oamAddr.toNat, pendingNmi := n, nmiPrev := p, irqLine := q } ∧
      t.ppu.oam = s.ppu.oam ∧ t.ppu.oamAddr = s.ppu.oamAddr := by
  subst hc
  obtain ⟨t, ht, hread⟩ := State.cycle_read hs hr (by unfold State.readable; rw [ha])
  obtain ⟨v, n, p, q, hcpu⟩ := hread.cpu
  have hcycle := ht
  rw [State.cycle_idle hs.1] at ht
  obtain ⟨hdb, hoam, haddr⟩ := busCycle_readOamData ht hr ha
  refine ⟨t, n, p, q, hcycle, hread.quiet.busReady hs, ?_, hoam, haddr⟩
  rw [hcpu] at hdb ⊢
  rw [show v = s.ppu.oam.read s.ppu.oamAddr.toNat from hdb]
  rfl

/-- A row that writes OAMDATA. -/
theorem State.cycle_writeOamData {s : State} {r : Row} {c : Cpu} (hs : s.BusReady) (hc : drives r s = c)
    (hr : c.rw = .write) (ha : cpuTarget c.ab = .ppu 4) :
    ∃ t n p q, s.cycle r = .ok t ∧ t.BusReady ∧ t.cpu = { c with pendingNmi := n, nmiPrev := p, irqLine := q } ∧
      t.ppu.oam = s.ppu.oam.write s.ppu.oamAddr.toNat c.db ∧ t.ppu.oamAddr = s.ppu.oamAddr + 1 := by
  subst hc
  obtain ⟨t, ht, hwrite⟩ := State.cycle_write hs hr (by unfold State.writable; rw [ha]; rfl)
  obtain ⟨n, p, q, hcpu⟩ := hwrite.cpu
  have hcycle := ht
  rw [State.cycle_idle hs.1] at ht
  obtain ⟨hoam, haddr⟩ := busCycle_writeOamData ht hr ha
  exact ⟨t, n, p, q, hcycle, hwrite.wrote.busReady hs, hcpu, hoam, haddr⟩

/-! ## Read-modify-write -/

/-- A read-modify-write of OAMDATA: the byte read, then the old and the new one written (rules R260, R351). -/
theorem rmwMemory_oamData {op : RmwOp} {o : Operand} {s t : State} {a : Word} (hs : s.CanRun)
    (hwf : s.ppu.oam.wf = true) (ha : o.address s = some a) (hT : cpuTarget a = .ppu 4)
    (hd : ∀ d, o.dummyRead false s = some d → s.readable d = true) (ht : rmwMemory op o s = .next t) :
    t.cpu.m = s.ppu.oam.read s.ppu.oamAddr.toNat ∧ t.ppu.oam.read s.ppu.oamAddr.toNat = t.cpu.m ∧
      t.ppu.oam.read (s.ppu.oamAddr + 1).toNat = (op.run t.cpu.m s.cpu.regs.p).1 ∧
      t.ppu.oamAddr = s.ppu.oamAddr + 2 := by
  obtain ⟨u, c, rest, h⟩ := o.walk (elide := false) (access := accessModify) [rowWriteBack, rowModify op] hs.1 ha hd
  obtain ⟨n, hq, -⟩ := h.quiet
  cases h.rest rfl
  have haddr0 : u.ppu.oamAddr = s.ppu.oamAddr := congrArg (fun w => w.2.2.1) hq.written
  -- the read
  obtain ⟨v, n1, p1, q1, hv, hready1, hcpu1, hoam1, haddr1⟩ := State.cycle_readOamData (s := u)
    (r := fun _ => accessModify a c) (hq.busReady hs.1) rfl rfl hT
  rw [hq.oam] at hcpu1 hoam1
  rw [haddr0] at hcpu1 haddr1
  set b := s.ppu.oam.read s.ppu.oamAddr.toNat
  -- the write of the old byte
  obtain ⟨w, n2, p2, q2, hw, hready2, hcpu2, hoam2, haddr2⟩ := State.cycle_writeOamData (s := v) (r := rowWriteBack)
    (c := { v.cpu with sync := false, m := b, ab := a, rw := .write, db := b, t := c.t + 2 }) hready1
    (by simp only [drives, rowWriteBack, hcpu1, accessModify, Cpu.rd, Cpu.wr, Cpu.next, h.ea]) rfl hT
  rw [hoam1, haddr1] at hoam2
  rw [haddr1] at haddr2
  -- the write of the new byte
  have hregs : w.cpu.regs = s.cpu.regs := by rw [hcpu2, hcpu1]; exact h.same.regs
  have hea : w.cpu.ea = a := by rw [hcpu2, hcpu1]; exact h.ea
  have hmb : w.cpu.m = b := by rw [hcpu2]
  obtain ⟨x, n3, p3, q3, hx, -, hcpu3, hoam3, haddr3⟩ := State.cycle_writeOamData (s := w) (r := rowModify op)
    (c := { w.cpu with
      sync := false, regs := { s.cpu.regs with p := (op.run b s.cpu.regs.p).2 }, ab := a, rw := .write,
      db := (op.run b s.cpu.regs.p).1, t := 1 }) hready2
    (by simp only [drives, rowModify, Cpu.setP, Cpu.wr, Cpu.last, hregs, hea, hmb]) rfl hT
  rw [hoam2, haddr2] at hoam3
  rw [haddr2] at haddr3
  have hrun : rmwMemory op o s = .next x.commit := by
    show ((o.start s).runRows (o.rows false accessModify ++ [rowWriteBack, rowModify op])).result = _
    rw [h.runs, State.runRows_more hv (by rw [hcpu1]; show c.t + 1 ≠ 1; have := h.late; omega),
      State.runRows_more hw (by rw [hcpu2]; show c.t + 2 ≠ 1; omega), State.runRows_last hx (by rw [hcpu3])]
    rfl
  cases ht.symm.trans hrun
  have hm : x.commit.cpu.m = b := by
    obtain ⟨-, -, -, hframe, -⟩ := x.cpu.runDeferred_frame
    rw [State.commit_cpu, hframe, hcpu3]
    exact hmb
  have hne : s.ppu.oamAddr.toNat ≠ (s.ppu.oamAddr + 1).toNat := by bv_omega
  rw [hm, State.commit_ppu, hoam3]
  refine ⟨rfl, ?_, ?_, ?_⟩
  · rw [Memory.read_write_other _ hne, Memory.read_write_same hwf]
  · rw [Memory.read_write_same (Memory.wf_write hwf _ _)]
  · rw [haddr3]; bv_omega

/-- Settles O22: the read-modify-write shape, and at OAMDATA the two bytes it writes. -/
theorem readModifyWriteMemory : Obligations.ReadModifyWriteMemory := by
  intro i op o s a hi hs hm ha hr hw hd
  rw [exec_form, hi]
  obtain ⟨t, ht, hregs, hdb, hmem, hsame, huntouched, -, -, -, hcyc⟩ := rmwMemory_next (op := op) hs hm ha hr hw hd
  exact ⟨t, ht, hregs, hdb, hmem, fun hT => rmwMemory_oamData hs (Memory.wfSize_wf hm.oam) ha hT hd ht, hsame,
    huntouched, hcyc⟩

/-! ## Accesses that stop -/

/-- No state of a cartridge answers a read of the address but with one fault. -/
def ReadStops (s : State) (a : Word) (f : Fault) : Prop :=
  (∀ k, cpuTarget a ≠ .ppu k) ∧ ∀ t : State, t.cart = s.cart → t.busRead a = .error f

/-- No state of a cartridge takes a write of the address: one fault. -/
def WriteStops (s : State) (a : Word) (f : Fault) : Prop :=
  ∀ (t : State) (v : Byte), t.cart = s.cart → t.busWrite a v = .error f

theorem stops_reserved {s : State} {a : Word} (h : 0x4018 ≤ a.toNat ∧ a.toNat < 0x4020) :
    ReadStops s a (.reservedIO a .read) ∧ WriteStops s a (.reservedIO a .write) := by
  have hT := cpuTarget_reserved h
  refine ⟨⟨fun k => by simp [hT], fun t _ => ?_⟩, fun t v _ => ?_⟩
  · unfold State.busRead; rw [hT]
  · unfold State.busWrite; rw [hT]

theorem stops_hole {s : State} {a : Word}
    (h : 0x4020 ≤ a.toNat ∧ a.toNat < 0x6000 ∨ 0x6000 ≤ a.toNat ∧ a.toNat < 0x8000 ∧ s.cart.prgRamLen = 0) :
    ReadStops s a (.cartridgeUnmapped a.toNat) ∧ WriteStops s a (.cartridgeUnmapped a.toNat) := by
  obtain h | ⟨h1, h2, hlen⟩ := h
  · have hT := cpuTarget_hole h
    refine ⟨⟨fun k => by simp [hT], fun t _ => ?_⟩, fun t v _ => ?_⟩
    · unfold State.busRead; rw [hT]
    · unfold State.busWrite; rw [hT]
  · have hT := cpuTarget_prgRam ⟨h1, h2⟩
    refine ⟨⟨fun k => by simp [hT], fun t ht => ?_⟩, fun t v ht => ?_⟩
    · unfold State.busRead; rw [hT, ht]; dsimp only; rw [if_pos hlen]
    · unfold State.busWrite; rw [hT, ht]; dsimp only; rw [if_pos hlen]

theorem stops_prgRom {s : State} {a : Word} (h : 0x8000 ≤ a.toNat) : WriteStops s a (.romWrite a) := by
  intro t v _
  unfold State.busWrite
  rw [cpuTarget_prgRom h]

/-- A row whose read has no answer. -/
theorem State.cycle_read_stops {s : State} {r : Row} {f : Fault} (hs : s.BusReady) (hr : (drives r s).rw = .read)
    (hf : ReadStops s (drives r s).ab f) : s.cycle r = .error f := by
  obtain ⟨hppu, hread⟩ := hf
  rw [State.cycle_idle hs.1]
  exact State.busCycle_read_error (s := s.withCpu (drives r s)) hs.2 hr (fun t _ ht => hread t ht) hppu

/-- A row whose write has no taker. -/
theorem State.cycle_write_stops {s : State} {r : Row} {f : Fault} (hs : s.BusReady) (hr : (drives r s).rw = .write)
    (hf : WriteStops s (drives r s).ab f) : s.cycle r = .error f := by
  rw [State.cycle_idle hs.1]
  exact State.busCycle_write_error (s := s.withCpu (drives r s)) hr (hf _ _ rfl)

section

variable {o : Operand} {s : State} {a : Word} {f : Fault} (hs : s.CanRun) (ha : o.address s = some a)
include hs ha

theorem readUse_stops {op : ReadOp} (hd : ∀ d, o.dummyRead true s = some d → s.readable d = true)
    (hf : ReadStops s a f) : readUse op o s = .fault f := by
  obtain ⟨t, c, rest, h⟩ := o.walk (elide := true) (access := accessUse op) [] hs.1 ha hd
  obtain ⟨n, hq, -⟩ := h.quiet
  have hcycle : t.cycle (fun _ => accessUse op a c) = .error f :=
    State.cycle_read_stops (hq.busReady hs.1) rfl ⟨hf.1, fun u hu => hf.2 u (hu.trans hq.cart)⟩
  have hshape : readUse op o s = ((o.start s).runRows (o.rows true (accessUse op))).result := by
    cases o
    case imm => cases ha
    all_goals rfl
  have hruns := h.runs
  rw [List.append_nil, State.runRows_error hcycle] at hruns
  rw [hshape, hruns]
  rfl

theorem store_stops {r : StoreReg} (hd : ∀ d, o.dummyRead false s = some d → s.readable d = true)
    (hf : WriteStops s a f) : store r o s = .fault f := by
  obtain ⟨t, c, rest, h⟩ := o.walk (elide := false) (access := accessStore r) [] hs.1 ha hd
  obtain ⟨n, hq, -⟩ := h.quiet
  have hcycle : t.cycle (fun _ => accessStore r a c) = .error f :=
    State.cycle_write_stops (hq.busReady hs.1) rfl fun u v hu => hf u v (hu.trans hq.cart)
  have hruns := h.runs
  rw [List.append_nil, State.runRows_error hcycle] at hruns
  show ((o.start s).runRows (o.rows false (accessStore r))).result = _
  rw [hruns]
  rfl

theorem rmwMemory_stops_read {op : RmwOp} (hd : ∀ d, o.dummyRead false s = some d → s.readable d = true)
    (hf : ReadStops s a f) : rmwMemory op o s = .fault f := by
  obtain ⟨t, c, rest, h⟩ := o.walk (elide := false) (access := accessModify) [rowWriteBack, rowModify op] hs.1 ha hd
  obtain ⟨n, hq, -⟩ := h.quiet
  have hcycle : t.cycle (fun _ => accessModify a c) = .error f :=
    State.cycle_read_stops (hq.busReady hs.1) rfl ⟨hf.1, fun u hu => hf.2 u (hu.trans hq.cart)⟩
  show ((o.start s).runRows (o.rows false accessModify ++ [rowWriteBack, rowModify op])).result = _
  rw [h.runs, State.runRows_error hcycle]
  rfl

theorem rmwMemory_stops_write {op : RmwOp} (hd : ∀ d, o.dummyRead false s = some d → s.readable d = true)
    (hr : s.readable a = true) (hf : WriteStops s a f) : rmwMemory op o s = .fault f := by
  obtain ⟨t, c, rest, h⟩ := o.walk (elide := false) (access := accessModify) [rowWriteBack, rowModify op] hs.1 ha hd
  obtain ⟨n, hq, -⟩ := h.quiet
  cases h.rest rfl
  have hready := hq.busReady hs.1
  have hlate := h.late
  obtain ⟨u, v, n1, p1, q1, hrun, hq1, hcpu, -⟩ := State.runRows_read_of (s := t) (r := fun _ => accessModify a c)
    [rowWriteBack, rowModify op] hready rfl rfl ((hq.readable a).trans hr) (by show c.t + 1 ≠ 1; omega)
  have hab : (drives rowWriteBack u).ab = a := by
    show u.cpu.ea = a
    rw [hcpu]; exact h.ea
  have hcycle : u.cycle rowWriteBack = .error f :=
    State.cycle_write_stops (hq1.busReady hready) rfl
      fun w b hw => hab ▸ hf w b (hw.trans (hq1.cart.trans hq.cart))
  show ((o.start s).runRows (o.rows false accessModify ++ [rowWriteBack, rowModify op])).result = _
  rw [h.runs, hrun, State.runRows_error hcycle]
  rfl

end

/-- Settles O23: each shape stops at the first of its accesses that has no answer. -/
theorem impossibleAccessesStop : Obligations.ImpossibleAccessesStop := by
  intro i o s a hs ha hole
  refine ⟨fun op hi hd => ?_, fun r hi hd => ?_, fun op hi hd => ?_⟩ <;> rw [exec_form, hi]
  · exact ⟨fun h => readUse_stops hs ha hd (stops_reserved h).1, fun h => readUse_stops hs ha hd (stops_hole h).1⟩
  · exact ⟨fun h => store_stops hs ha hd (stops_reserved h).2, fun h => store_stops hs ha hd (stops_hole h).2,
      fun h => store_stops hs ha hd (stops_prgRom h)⟩
  · refine ⟨fun h => rmwMemory_stops_read hs ha hd (stops_reserved h).1,
      fun h => rmwMemory_stops_read hs ha hd (stops_hole h).1, fun h => ?_⟩
    exact rmwMemory_stops_write hs ha hd (by unfold State.readable; rw [cpuTarget_prgRom h]) (stops_prgRom h)

end Sys2Proof.Machine
end

section
/-! PROOF. Address maps, register accesses of the PPU, the controller port, the status of the APU, and construct. -/

namespace Sys2Proof.Machine

/-! ## Mirrors (rules R84, R87, R100, R103, R111) -/

theorem cpuTarget_ram {a : Word} (h : a.toNat < 0x2000) : cpuTarget a = .ram (a.toNat % 0x0800) := by
  unfold cpuTarget
  exact if_pos h

/-- Settles O41: an address below 0x2000 selects RAM modulo its size, and one above 0x8000 selects PRG-ROM modulo its. -/
theorem memoryIsMirrored : Obligations.MemoryIsMirrored := by
  refine ⟨fun s a b v hm ha hb hab => ?_, ?_⟩
  · refine ⟨{ s with ram := s.ram.write (a.toNat % 0x0800) v }, ?_, ?_⟩
    · unfold State.busWrite
      rw [cpuTarget_ram ha]
    · unfold State.busRead
      rw [cpuTarget_ram hb, hab]
      dsimp only
      rw [Memory.read_write_same (Memory.wfSize_wf hm.ram)]
  · intro s k v hk hlen a b
    have hmirror : ∀ (j : Nat) (c : Word), c.toNat = 0x8000 + j → j % 0x4000 = k →
        s.busRead c = .ok (s.cart.prgRom.read k, s) ∧ s.busWrite c v = .error (.romWrite c) := by
      intro j c hc hj
      have hT : cpuTarget c = .prgRom j := by
        rw [cpuTarget_prgRom (by omega), hc, Nat.add_sub_cancel_left]
      unfold State.busRead State.busWrite
      rw [hT]
      dsimp only
      rw [hlen, hj]
      exact ⟨rfl, rfl⟩
    obtain ⟨ra, wa⟩ := hmirror k a (by rw [BitVec.toNat_ofNat]; omega) (by omega)
    obtain ⟨rb, wb⟩ := hmirror (0x4000 + k) b (by rw [BitVec.toNat_ofNat]; omega) (by omega)
    exact ⟨ra, rb, wa, wb⟩

/-- Settles O42: each mode clears one bit of the address, of which it keeps eleven. -/
theorem nametablesAreMirrored : Obligations.NametablesAreMirrored := by
  intro p
  have clears : ∀ m : BitVec 14, (p ^^^ m) &&& ~~~m = p &&& ~~~m := by
    intro m
    apply BitVec.eq_of_getLsbD_eq
    intro i hi
    simp only [BitVec.getLsbD_and, BitVec.getLsbD_xor, BitVec.getLsbD_not, hi, decide_true, Bool.true_and]
    cases p.getLsbD i <;> cases m.getLsbD i <;> rfl
  refine ⟨?_, ?_, ?_, ?_, fun m => vramIndex_lt m p⟩
  · apply Nat.eq_of_testBit_eq
    intro i
    rw [vramIndex, show (2048 : Nat) = 2 ^ 11 from rfl, Nat.testBit_mod_two_pow, Nat.testBit_mod_two_pow]
    by_cases hi : i < 11
    · have hbit : (0x0800 : BitVec 14).getLsbD i = false := by interval_cases i <;> rfl
      rw [BitVec.testBit_toNat, BitVec.testBit_toNat, BitVec.getLsbD_and, BitVec.getLsbD_not, hbit]
      simp [hi, show i < 14 by omega]
    · simp [hi]
  · apply Nat.eq_of_testBit_eq
    intro i
    rw [vramIndex, show (2048 : Nat) = 2 ^ 11 from rfl, show (1024 : Nat) = 2 ^ 10 from rfl, Nat.testBit_mod_two_pow,
      Nat.testBit_mod_two_pow]
    by_cases hi : i < 11
    · have hbit : (0x0400 : BitVec 14).getLsbD i = decide (i = 10) := by interval_cases i <;> rfl
      rw [BitVec.testBit_toNat, BitVec.testBit_toNat, BitVec.getLsbD_and, BitVec.getLsbD_not, hbit]
      by_cases hten : i = 10
      · simp [hten]
      · simp [hi, hten, show i < 14 by omega, show i < 10 by omega]
    · have hi' : ¬ i < 10 := by omega
      simp [hi, hi']
  · rw [vramIndex, vramIndex, clears]
  · rw [vramIndex, vramIndex, clears]

/-! ## OAMDATA (rule R351) -/

theorem writeOamData_frame (ds : List Byte) (p : Ppu) (k : Byte)
    (hk : ∀ j, j < ds.length → k ≠ p.oamAddr + BitVec.ofNat 8 j) :
    (ds.foldl Ppu.writeOamData p).oam.read k.toNat = p.oam.read k.toNat := by
  induction ds generalizing p with
  | nil => rfl
  | cons d ds ih =>
    have hfirst : k ≠ p.oamAddr := by
      have h0 := hk 0 (Nat.succ_pos _)
      rwa [BitVec.add_zero] at h0
    refine (ih (p.writeOamData d) fun j hj => ?_).trans ?_
    · have hnext := hk (j + 1) (by simp only [List.length_cons]; omega)
      show k ≠ p.oamAddr + 1 + BitVec.ofNat 8 j
      rwa [BitVec.ofNat_add, BitVec.add_comm (BitVec.ofNat 8 j), ← BitVec.add_assoc] at hnext
    · exact Memory.read_write_other _ (fun h => hfirst (BitVec.eq_of_toNat_eq h)) _

theorem writeOamData_oamAddr (ds : List Byte) (p : Ppu) :
    (ds.foldl Ppu.writeOamData p).oamAddr = p.oamAddr + BitVec.ofNat 8 ds.length := by
  induction ds generalizing p with
  | nil => exact (BitVec.add_zero _).symm
  | cons d ds ih =>
    refine (ih (p.writeOamData d)).trans ?_
    show p.oamAddr + 1 + BitVec.ofNat 8 ds.length = _
    rw [List.length_cons, BitVec.ofNat_add, BitVec.add_comm (BitVec.ofNat 8 ds.length), ← BitVec.add_assoc]
    rfl

/-- Up to 256 writes: each byte is where OAMADDR stood, and no later write reaches it. -/
theorem writeOamData_reads (ds : List Byte) (p : Ppu) (hwf : p.oam.wf = true) (hlen : ds.length ≤ 256) (j : Nat)
    (hj : j < ds.length) :
    (ds.foldl Ppu.writeOamData p).oam.read (p.oamAddr + BitVec.ofNat 8 j).toNat = ds[j] := by
  induction ds generalizing p j with
  | nil => cases hj
  | cons d ds ih =>
    simp only [List.length_cons] at hlen hj
    have hstep : (p.writeOamData d).oamAddr = p.oamAddr + 1 := rfl
    cases j with
    | zero =>
      rw [BitVec.add_zero]
      refine (writeOamData_frame ds (p.writeOamData d) _ fun j hj => ?_).trans ?_
      · rw [hstep]; bv_omega
      · exact Memory.read_write_same hwf _ _
    | succ j =>
      have hrest := ih (p.writeOamData d) (Memory.wf_write hwf _ _) (by omega) j (by omega)
      rw [hstep] at hrest
      rw [List.getElem_cons_succ, ← hrest, BitVec.ofNat_add, BitVec.add_comm (BitVec.ofNat 8 j), ← BitVec.add_assoc]
      rfl

/-- Settles O43: by induction over the writes. -/
theorem oamDataSequence : Obligations.OamDataSequence := by
  intro p ds hwf hlen q
  exact ⟨writeOamData_reads ds p hwf hlen, writeOamData_frame ds p, writeOamData_oamAddr ds p, rfl, rfl⟩

/-! ## The two-write registers (rules R352, R353) -/

theorem toNat_append_eq {m n : Nat} (x : BitVec m) (y : BitVec n) : (x ++ y).toNat = x.toNat * 2 ^ n + y.toNat := by
  rw [BitVec.toNat_append, ← Nat.shiftLeft_add_eq_or_of_lt y.isLt, Nat.shiftLeft_eq]

theorem coarseX_joinScroll (fy : BitVec 3) (nt : BitVec 2) (cy cx : BitVec 5) :
    coarseX (joinScroll fy nt cy cx) = cx := by
  apply BitVec.eq_of_toNat_eq
  have hcx := cx.isLt
  simp only [coarseX, joinScroll, BitVec.extractLsb'_toNat, toNat_append_eq, Nat.shiftRight_zero]
  omega

theorem coarseY_joinScroll (fy : BitVec 3) (nt : BitVec 2) (cy cx : BitVec 5) :
    coarseY (joinScroll fy nt cy cx) = cy := by
  apply BitVec.eq_of_toNat_eq
  have hcx := cx.isLt
  have hcy := cy.isLt
  simp only [coarseY, joinScroll, BitVec.extractLsb'_toNat, toNat_append_eq, Nat.shiftRight_eq_div_pow]
  omega

theorem fineY_joinScroll (fy : BitVec 3) (nt : BitVec 2) (cy cx : BitVec 5) :
    fineY (joinScroll fy nt cy cx) = fy := by
  apply BitVec.eq_of_toNat_eq
  have hcx := cx.isLt
  have hcy := cy.isLt
  have hnt := nt.isLt
  have hfy := fy.isLt
  simp only [fineY, joinScroll, BitVec.extractLsb'_toNat, toNat_append_eq, Nat.shiftRight_eq_div_pow]
  omega

/-- Settles O44: the first and the second write, field by field. -/
theorem twoWriteRegisters : Obligations.TwoWriteRegisters := by
  intro p x
  have hx := x.isLt
  have ht := p.t.isLt
  refine ⟨?_, ?_⟩
  · cases hw : p.w
    · have hfirst : p.writeAddr x = { p with t := 0#1 ++ x.extractLsb' 0 6 ++ p.t.extractLsb' 0 8, w := true } := by
        unfold Ppu.writeAddr; rw [hw]; rfl
      rw [hfirst]
      refine ⟨rfl, rfl, fun _ => ⟨rfl, ?_⟩, nofun⟩
      simp only [toNat_append_eq, BitVec.extractLsb'_toNat, Nat.shiftRight_zero, BitVec.toNat_ofNat]
      omega
    · have hsecond : p.writeAddr x =
          { p with t := p.t.extractLsb' 8 7 ++ x, v := p.t.extractLsb' 8 7 ++ x, w := false } := by
        unfold Ppu.writeAddr; rw [hw]; rfl
      rw [hsecond]
      refine ⟨rfl, rfl, nofun, fun _ => ⟨rfl, ?_⟩⟩
      simp only [toNat_append_eq, BitVec.extractLsb'_toNat, Nat.shiftRight_eq_div_pow]
      omega
  · cases hw : p.w
    · have hfirst : p.writeScroll x =
          { p with fineX := x.extractLsb' 0 3, t := setCoarseX p.t (x.extractLsb' 3 5), w := true } := by
        unfold Ppu.writeScroll; rw [hw]; rfl
      rw [hfirst]
      refine ⟨rfl, rfl, nametable_joinScroll .., fun _ => ⟨?_, ?_, coarseY_joinScroll .., fineY_joinScroll ..⟩, nofun⟩
      · exact BitVec.extractLsb'_toNat ..
      · rw [show coarseX (setCoarseX p.t (x.extractLsb' 3 5)) = x.extractLsb' 3 5 from coarseX_joinScroll ..,
          BitVec.extractLsb'_toNat, Nat.shiftRight_eq_div_pow]
        omega
    · have hsecond : p.writeScroll x =
          { p with t := setCoarseY (setFineY p.t (x.extractLsb' 0 3)) (x.extractLsb' 3 5), w := false } := by
        unfold Ppu.writeScroll; rw [hw]; rfl
      rw [hsecond]
      refine ⟨rfl, rfl, (nametable_joinScroll ..).trans (nametable_joinScroll ..), nofun,
        fun _ => ⟨rfl, ?_, ?_, (coarseX_joinScroll ..).trans (coarseX_joinScroll ..)⟩⟩
      · rw [show fineY (setCoarseY (setFineY p.t (x.extractLsb' 0 3)) (x.extractLsb' 3 5)) = x.extractLsb' 0 3 from
          (fineY_joinScroll ..).trans (fineY_joinScroll ..)]
        exact BitVec.extractLsb'_toNat ..
      · rw [show coarseY (setCoarseY (setFineY p.t (x.extractLsb' 0 3)) (x.extractLsb' 3 5)) = x.extractLsb' 3 5 from
          coarseY_joinScroll .., BitVec.extractLsb'_toNat, Nat.shiftRight_eq_div_pow]
        omega

/-! ## The APU's status, the controller port, construct -/

/-- The status byte by its bits' weights. -/
theorem statusBits_toNat (f t p2 p1 : Bool) :
    (0#1 ++ BitVec.ofBool f ++ 0#3 ++ BitVec.ofBool t ++ BitVec.ofBool p2 ++ BitVec.ofBool p1 : BitVec 8).toNat =
      p1.toNat + 2 * p2.toNat + 4 * t.toNat + 64 * f.toNat := by
  revert f t p2 p1; decide

/-- Settles O58: the status byte, bit by bit, and the interrupt cleared. -/
theorem apuStatusRead : Obligations.ApuStatusRead := by
  intro s
  refine ⟨s.apu.status, _, rfl, rfl, ?_⟩
  rw [Apu.status, statusBits_toNat]
  have bit : ∀ n : BitVec 8, (decide (n ≠ 0)).toNat = if n = 0 then 0 else 1 := fun n => by
    by_cases hn : n = 0 <;> simp only [hn, ne_eq, not_true, not_false_iff, decide_true, decide_false] <;> rfl
  have irq : (if s.apu.frameIrq then 64 else 0) = 64 * s.apu.frameIrq.toNat := by cases s.apu.frameIrq <;> rfl
  rw [bit, bit, bit, irq]
  split_ifs <;> rfl

theorem serialByte_eq (sr : Byte) : serialByte sr = BitVec.ofNat 8 (sr.getLsbD 0).toNat := by
  revert sr; decide

/-- Reads of a port give the bits of its register, the least significant first. -/
theorem readTimes_port {a : Word} {get : State → Byte} {set : State → Byte → State}
    (hread : ∀ s : State, s.busRead a = .ok (serialByte (get s), set s (get s >>> 1)))
    (hset : ∀ s sr, get (set s sr) = sr) (n : Nat) (s : State) :
    ∃ t, State.readTimes a n s = .ok ((List.range n).map fun k => BitVec.ofNat 8 ((get s).getLsbD k).toNat, t) := by
  induction n generalizing s with
  | zero => exact ⟨s, rfl⟩
  | succ n ih =>
    obtain ⟨t, ht⟩ := ih (set s (get s >>> 1))
    refine ⟨t, ?_⟩
    simp only [State.readTimes, hread, ht, hset, serialByte_eq, List.range_succ_eq_map, List.map_cons, List.map_map,
      BitVec.getLsbD_ushiftRight]
    simp [Function.comp_def, Nat.add_comm]

/-- Settles O59: the falling edge takes the pair, and each port shifts its byte out. -/
theorem controllerShiftsItsBits : Obligations.ControllerShiftsItsBits := by
  intro s d b1 b2 rest hlatch hanswers hd
  have hwrite : s.ctl.writeLatch d = { latch := false, sr1 := b1, sr2 := b2, answers := rest } := by
    unfold Controller.writeLatch
    rw [hlatch, hd, hanswers]
    rfl
  set t : State := { s with ctl := { latch := false, sr1 := b1, sr2 := b2, answers := rest } } with ht
  obtain ⟨t1, h1⟩ := readTimes_port (a := 0x4016) (get := fun s => s.ctl.sr1)
    (set := fun s sr => { s with ctl := { s.ctl with sr1 := sr } }) (fun _ => rfl) (fun _ _ => rfl) 9 t
  obtain ⟨t2, h2⟩ := readTimes_port (a := 0x4017) (get := fun s => s.ctl.sr2)
    (set := fun s sr => { s with ctl := { s.ctl with sr2 := sr } }) (fun _ => rfl) (fun _ _ => rfl) 9 t
  refine ⟨t, t1, t2, ?_, rfl, rfl, h1, h2⟩
  show Except.ok ({ s with ctl := s.ctl.writeLatch d } : State) = _
  rw [hwrite]

theorem Cartridge.sizesOk_iff (c : Cartridge) : c.sizesOk = true ↔
    c.prgRomLen ≠ 0 ∧ c.prgRomLen % 16384 = 0 ∧ c.chrRomLen % 8192 = 0 ∧ (c.prgRamLen = 0 ∨ c.prgRamLen = 8192) := by
  simp only [Cartridge.sizesOk, Bool.and_eq_true, Bool.or_eq_true, decide_eq_true_eq, and_assoc]

/-- Settles O60: construct tests the sizes of rule R523. -/
theorem constructChecksTheSizes : Obligations.ConstructChecksTheSizes := by
  intro c po audio
  rw [← c.sizesOk_iff]
  unfold State.construct
  exact ⟨fun h => ⟨if_pos h, rfl, rfl, rfl, rfl, rfl⟩, fun h => if_neg h⟩

end Sys2Proof.Machine
end

section
/-! PROOF. The APU: its registers, the frame interrupt, the units of the channels, the envelope, the mixer and the sample path. -/

namespace Sys2Proof.Machine

/-! ## Register writes (rules R421 to R432, R461) -/

theorem getLsbD_eq_decide {w : Nat} (x : BitVec w) (k : Nat) : x.getLsbD k = decide (x.toNat / 2 ^ k % 2 = 1) :=
  Nat.testBit_eq_decide_div_mod_eq

theorem extractLsb'_eq_ofNat {w : Nat} (x : BitVec w) (k len : Nat) :
    x.extractLsb' k len = BitVec.ofNat len (x.toNat / 2 ^ k) := by
  apply BitVec.eq_of_toNat_eq
  rw [BitVec.extractLsb'_toNat, BitVec.toNat_ofNat, Nat.shiftRight_eq_div_pow]

theorem BitTimer.setLow_eq (b : BitTimer 11) (d : Byte) :
    b.setLow d = { b with reload := BitVec.ofNat 11 (b.reload.toNat / 256 * 256 + d.toNat) } := by
  have hb := b.reload.isLt
  have hd := d.isLt
  have e : b.reload.extractLsb' 8 3 ++ d = BitVec.ofNat 11 (b.reload.toNat / 256 * 256 + d.toNat) := by
    apply BitVec.eq_of_toNat_eq
    rw [toNat_append_eq, BitVec.extractLsb'_toNat, BitVec.toNat_ofNat, Nat.shiftRight_eq_div_pow]
    omega
  unfold BitTimer.setLow; rw [e]

theorem BitTimer.setHigh_eq (b : BitTimer 11) (d : Byte) :
    b.setHigh d = { b with reload := BitVec.ofNat 11 (d.toNat % 8 * 256 + b.reload.toNat % 256) } := by
  have e : d.extractLsb' 0 3 ++ b.reload.extractLsb' 0 8 = BitVec.ofNat 11 (d.toNat % 8 * 256 + b.reload.toNat % 256) := by
    apply BitVec.eq_of_toNat_eq
    rw [toNat_append_eq, BitVec.extractLsb'_toNat, BitVec.extractLsb'_toNat, BitVec.toNat_ofNat, Nat.shiftRight_zero,
      Nat.shiftRight_zero]
    omega
  unfold BitTimer.setHigh; rw [e]

theorem lengthEntry_extract (d : Byte) :
    lengthEntry (d.extractLsb' 3 5) = BitVec.ofNat 8 (Config.lengthTable.getD (d.toNat / 8) 0) := by
  have hd := d.isLt
  unfold lengthEntry
  rw [BitVec.extractLsb'_toNat, Nat.shiftRight_eq_div_pow, Nat.mod_eq_of_lt (by omega)]

/-- Settles O55: each register's write, its fields as numbers. -/
theorem apuRegisterWrites : Obligations.ApuRegisterWrites := by
  intro a d
  have bit := getLsbD_eq_decide d
  have field := extractLsb'_eq_ofNat d
  have whole : ∀ len, d.extractLsb' 0 len = BitVec.ofNat len d.toNat := fun len => by rw [field, Nat.pow_zero, Nat.div_one]
  have control : ∀ p : Pulse, p.writeControl d = _ := fun p => by
    unfold Pulse.writeControl; rw [bit, bit, field, whole]
  have sweep : ∀ p : Pulse, p.writeSweep d = _ := fun p => by
    unfold Pulse.writeSweep; rw [bit, bit, field, whole]
  have noteOn : ∀ p : Pulse, p.writeNoteOn d = _ := fun p => by
    unfold Pulse.writeNoteOn LengthCounter.load; rw [BitTimer.setHigh_eq, lengthEntry_extract]
  have timer : ∀ p : Pulse, p.writeTimerLow d = _ := fun p => by
    unfold Pulse.writeTimerLow; rw [BitTimer.setLow_eq]
  refine ⟨?_, ?_, ?_, ?_, ?_, ?_, ?_, ?_, ?_, ?_, ?_, ?_, ?_, fun k hk => ?_⟩
  · exact congrArg (fun p => { a with pulse1 := p }) (control a.pulse1)
  · exact congrArg (fun p => { a with pulse2 := p }) (control a.pulse2)
  · exact congrArg (fun p => { a with pulse1 := p }) (sweep a.pulse1)
  · exact congrArg (fun p => { a with pulse2 := p }) (sweep a.pulse2)
  · exact congrArg (fun p => { a with pulse1 := p }) (timer a.pulse1)
  · exact congrArg (fun p => { a with pulse2 := p }) (timer a.pulse2)
  · exact congrArg (fun p => { a with pulse1 := p }) (noteOn a.pulse1)
  · exact congrArg (fun p => { a with pulse2 := p }) (noteOn a.pulse2)
  · show ({ a with triangle := a.triangle.writeLinear d } : Apu) = _
    unfold Triangle.writeLinear; rw [bit, whole]
  · show ({ a with triangle := a.triangle.writeTimerLow d } : Apu) = _
    unfold Triangle.writeTimerLow; rw [BitTimer.setLow_eq]
  · show ({ a with triangle := a.triangle.writeNoteOn d } : Apu) = _
    unfold Triangle.writeNoteOn LengthCounter.load; rw [BitTimer.setHigh_eq, lengthEntry_extract]; rfl
  · show a.writeEnables d = _
    unfold Apu.writeEnables LengthCounter.gate; rw [bit, bit, bit]
  · show a.writeFrameCounter d = _
    unfold Apu.writeFrameCounter; rw [bit, bit]
  · rcases hk with rfl | ⟨h1, h2⟩
    · rfl
    · unfold Apu.write
      split <;> first | omega | rfl

/-! ## The frame interrupt (rules R424, R463) -/

theorem Apu.step_frame (a : Apu) :
    a.step.mode = a.mode ∧ a.step.irqInhibit = a.irqInhibit ∧ a.step.frameIrq = a.frameCounterStep.frameIrq := by
  have timers : a.frameCounterStep.timerSteps.mode = a.mode ∧ a.frameCounterStep.timerSteps.irqInhibit = a.irqInhibit ∧
      a.frameCounterStep.timerSteps.frameIrq = a.frameCounterStep.frameIrq := by
    unfold Apu.timerSteps; dsimp only; split <;> exact ⟨rfl, rfl, rfl⟩
  unfold Apu.step
  dsimp only
  split <;> split <;> exact timers

/-- The `n`th step of a period in four-step mode, the interrupt allowed. -/
theorem Apu.iterate_fourStep {a : Apu} (hmode : a.mode = .fourStep) (hi : a.irqInhibit = false) (hc : a.count = 0)
    (hirq : a.frameIrq = false) (n : Nat) (hn : n ≤ 29829) :
    (Apu.step^[n] a).mode = .fourStep ∧ (Apu.step^[n] a).irqInhibit = false ∧ (Apu.step^[n] a).count = n ∧
      (Apu.step^[n] a).frameIrq = decide (29828 ≤ n) := by
  induction n with
  | zero => exact ⟨hmode, hi, hc, hirq⟩
  | succ n ih =>
    obtain ⟨hm, hi, hc, hirq⟩ := ih (by omega)
    rw [Function.iterate_succ_apply']
    obtain ⟨em, ei, ef⟩ := (Apu.step^[n] a).step_frame
    have hnext : (Apu.step^[n] a).nextCount = n + 1 := by
      unfold Apu.nextCount
      rw [hm, hc, if_neg (by show ¬ 29830 ≤ n + 1; omega)]
    refine ⟨em.trans hm, ei.trans hi, (Apu.step_count _).trans hnext, ef.trans ?_⟩
    show (_ || (decide (_ = FrameMode.fourStep) && !_ && decide (_ = 29828))) = _
    rw [hirq, hm, hi, hnext, Bool.eq_iff_iff]
    simp only [decide_true, Bool.not_false, Bool.and_self, Bool.true_and, Bool.or_eq_true, decide_eq_true_eq]
    omega

/-- Settles O53: the count runs through one period. -/
theorem frameInterruptTiming : Obligations.FrameInterruptTiming := by
  intro a hmode hi hc hirq
  have at_ := Apu.iterate_fourStep hmode hi hc hirq
  refine ⟨fun n hn => ?_, ?_, ?_⟩
  · rw [(at_ n (by omega)).2.2.2]; exact decide_eq_false (by omega)
  · rw [(at_ 29828 (by omega)).2.2.2]; exact decide_eq_true (by omega)
  · obtain ⟨hm, -, hlast, -⟩ := at_ 29829 (by omega)
    rw [show (29830 : Nat) = 29829 + 1 from rfl, Function.iterate_succ_apply', Apu.step_count]
    unfold Apu.nextCount
    rw [hm, hlast, if_pos (by decide)]

/-! ## The envelope (rule R438) -/

/-- The envelope with its divider's count replaced. -/
def Envelope.dividing (e : Envelope) (c : BitVec 4) : Envelope := { e with divider := { e.divider with counter := c } }

theorem Envelope.step_waiting {e : Envelope} (hs : e.start = false) {c : BitVec 4} (hc : c ≠ 0) :
    (e.dividing c).step = e.dividing (c - 1) := by
  unfold Envelope.step BitTimer.clock BitTimer.step
  rw [show (e.dividing c).start = false from hs, show (e.dividing c).divider.counter = c from rfl, decide_eq_false hc,
    if_neg hc, if_neg Bool.false_ne_true, if_neg Bool.false_ne_true, ← hs]
  rfl

theorem Envelope.step_decays {e : Envelope} (hs : e.start = false) (hd : e.decayLevel ≠ 0) :
    (e.dividing 0).step = { e.dividing e.divider.reload with decayLevel := e.decayLevel - 1 } := by
  unfold Envelope.step BitTimer.clock BitTimer.step
  rw [show (e.dividing 0).start = false from hs, show (e.dividing 0).decayLevel = e.decayLevel from rfl, if_pos hd,
    show (e.dividing 0).divider.counter = 0 from rfl, decide_eq_true rfl, if_pos rfl, if_neg Bool.false_ne_true, if_pos rfl,
    ← hs]
  rfl

/-- The divider counts down before the level falls. -/
theorem Envelope.iterate_waiting {e : Envelope} (hs : e.start = false) (c : BitVec 4) (j : Nat) (hj : j ≤ c.toNat) :
    Envelope.step^[j] (e.dividing c) = e.dividing (c - BitVec.ofNat 4 j) := by
  induction j with
  | zero => rw [BitVec.sub_zero]; rfl
  | succ j ih =>
    have hc := c.isLt
    rw [Function.iterate_succ_apply', ih (by omega), Envelope.step_waiting hs (by bv_omega)]
    congr 1
    bv_omega

/-- One period of the divider, from its reload value: the level falls by one. -/
theorem Envelope.iterate_period {e : Envelope} (hs : e.start = false) (hd : e.decayLevel ≠ 0) :
    Envelope.step^[e.divider.reload.toNat + 1] (e.dividing e.divider.reload) =
      { e.dividing e.divider.reload with decayLevel := e.decayLevel - 1 } := by
  rw [Function.iterate_succ_apply', Envelope.iterate_waiting hs _ _ (Nat.le_refl _), BitVec.ofNat_toNat, BitVec.setWidth_eq,
    BitVec.sub_self]
  exact Envelope.step_decays hs hd

/-- Settles O56: by induction over the periods. -/
theorem envelopeDecays : Obligations.EnvelopeDecays := by
  intro e k hs hk
  set e1 : Envelope := { e with start := false, decayLevel := 15, divider := e.divider.restart } with he1
  have hfirst : e.step = e1 := by unfold Envelope.step; rw [if_pos hs]
  have periods : ∀ k ≤ 15, Envelope.step^[k * (e.divider.reload.toNat + 1)] e1 =
      { e1 with decayLevel := 15 - BitVec.ofNat 4 k } := by
    intro k hk
    induction k with
    | zero => simp [he1]
    | succ k ih =>
      rw [Nat.succ_mul, Nat.add_comm, Function.iterate_add_apply, ih (by omega)]
      refine (Envelope.iterate_period (e := { e1 with decayLevel := 15 - BitVec.ofNat 4 k }) rfl ?_).trans ?_
      · show (15 : BitVec 4) - BitVec.ofNat 4 k ≠ 0
        bv_omega
      · have : (15 : BitVec 4) - BitVec.ofNat 4 k - 1 = 15 - BitVec.ofNat 4 (k + 1) := by bv_omega
        dsimp only
        rw [this]
        rfl
  rw [Nat.add_comm, Function.iterate_add_apply, Function.iterate_one, hfirst, periods k hk]
  show ((15 : BitVec 4) - BitVec.ofNat 4 k).toNat = 15 - k
  bv_omega

/-! ## The units of the channels (rules R433 to R441) -/

theorem BitTimer.step_reload {n : Nat} (b : BitTimer n) : b.step.reload = b.reload := by
  unfold BitTimer.step; split <;> rfl

theorem BitTimer.step_counter {n : Nat} (b : BitTimer n) :
    b.step.counter = if b.counter = 0 then b.reload else b.counter - 1 := by
  unfold BitTimer.step; split <;> rfl

theorem LengthCounter.step_counter (l : LengthCounter) :
    l.step.counter = if !l.halt && decide (l.counter ≠ 0) then l.counter - 1 else l.counter := by
  unfold LengthCounter.step; split <;> rfl

theorem Pulse.sweepTarget_eq (p : Pulse) : p.sweepTarget =
    if p.sweep.negate then p.timer.reload.toNat - p.timer.reload.toNat / 2 ^ p.sweep.shift.toNat
    else p.timer.reload.toNat + p.timer.reload.toNat / 2 ^ p.sweep.shift.toNat := by
  unfold Pulse.sweepTarget
  dsimp only
  rw [Nat.shiftRight_eq_div_pow]

/-- Everything the sweep reads or writes, on a half-frame pulse. -/
theorem Pulse.sweepStep_fields (p : Pulse) :
    p.sweepStep.timer.reload.toNat =
      (if decide (p.sweep.divider.counter = 0) && p.sweep.enabled && decide (p.sweepTarget ≤ 0x7FF) &&
        decide (8 ≤ p.timer.reload.toNat) then p.sweepTarget else p.timer.reload.toNat) ∧
    p.sweepStep.sweep.divider.counter =
      (if decide (p.sweep.divider.counter = 0) || p.sweep.reloadPending then p.sweep.divider.reload
        else p.sweep.divider.counter - 1) ∧
    p.sweepStep.sweep.reloadPending = false := by
  unfold Pulse.sweepStep BitTimer.clock
  dsimp only
  refine ⟨?_, ?_, ?_⟩
  · have hm : (!p.muted) = (decide (p.sweepTarget ≤ 0x7FF) && decide (8 ≤ p.timer.reload.toNat)) := by
      unfold Pulse.muted
      simp only [Bool.not_or, ← decide_not, Nat.not_lt]
    rw [hm, ← Bool.and_assoc]
    split
    · rename_i h
      have hle : p.sweepTarget ≤ 0x7FF := by simp only [Bool.and_eq_true, decide_eq_true_eq] at h; exact h.1.2
      show (BitVec.ofNat 11 p.sweepTarget).toNat = _
      rw [BitVec.toNat_ofNat, Nat.mod_eq_of_lt (by omega)]
    · rfl
  · split
    · rfl
    · rename_i h
      have hc : p.sweep.divider.counter ≠ 0 := fun hc => h (by rw [hc]; rfl)
      show p.sweep.divider.step.counter = _
      rw [BitTimer.step_counter, if_neg hc]
  · split
    · rfl
    · rename_i h
      cases hp : p.sweep.reloadPending
      · rfl
      · exact absurd (by rw [hp, Bool.or_true]) h

theorem Pulse.after_fields (p : Pulse) (timers quarter half : Bool) :
    let q := p.after timers quarter half
    let u := if timers then p.timerStep else p
    q.length.counter = (if half then p.length.step else p.length).counter ∧
    q.timer.counter = u.timer.counter ∧ q.seqPos = u.seqPos ∧
    q.timer.reload = (if half then p.sweepStep.timer.reload else p.timer.reload) ∧
    q.sweep = (if half then p.sweepStep.sweep else p.sweep) := by
  have hreload : p.timerStep.timer.reload = p.timer.reload := p.timer.step_reload
  -- the sweep reads the period and its own fields, which the other units leave alone
  have sweep : ∀ r : Pulse, r.timer.reload = p.timer.reload → r.sweep = p.sweep →
      r.sweepStep.timer.reload = p.sweepStep.timer.reload ∧ r.sweepStep.sweep = p.sweepStep.sweep ∧
      r.sweepStep.timer.counter = r.timer.counter := by
    intro r h1 h2
    have ht : r.sweepTarget = p.sweepTarget := by rw [Pulse.sweepTarget_eq, Pulse.sweepTarget_eq, h1, h2]
    refine ⟨BitVec.eq_of_toNat_eq ?_, ?_, ?_⟩
    · rw [r.sweepStep_fields.1, p.sweepStep_fields.1, ht, h1, h2]
    · unfold Pulse.sweepStep
      dsimp only
      rw [h2]
    · unfold Pulse.sweepStep
      dsimp only
      split <;> rfl
  have run : ∀ r : Pulse, r.timer.reload = p.timer.reload → r.sweep = p.sweep → r.length = p.length →
      let q := if half then Pulse.sweepStep { r with length := r.length.step } else r
      q.length.counter = (if half then p.length.step else p.length).counter ∧ q.timer.counter = r.timer.counter ∧
      q.seqPos = r.seqPos ∧ q.timer.reload = (if half then p.sweepStep.timer.reload else p.timer.reload) ∧
      q.sweep = (if half then p.sweepStep.sweep else p.sweep) := by
    intro r h1 h2 h3
    cases half
    · exact ⟨congrArg LengthCounter.counter h3, rfl, rfl, h1, h2⟩
    · obtain ⟨k1, k2, k3⟩ := sweep { r with length := r.length.step } h1 h2
      exact ⟨by rw [← h3]; rfl, k3, rfl, k1, k2⟩
  cases timers <;> cases quarter
  · exact run p rfl rfl rfl
  · exact run { p with env := p.env.step } rfl rfl rfl
  · exact run p.timerStep hreload rfl rfl
  · exact run { p.timerStep with env := p.timerStep.env.step } hreload rfl rfl

theorem LinearCounter.step_fields (l : LinearCounter) :
    l.step.counter.toNat = (if l.reloadLatch then l.reloadValue.toNat else l.counter.toNat - 1) ∧
    l.step.reloadLatch = (l.reloadLatch && l.control) := by
  unfold LinearCounter.step
  dsimp only
  constructor
  · cases l.reloadLatch
    · rw [if_neg Bool.false_ne_true, if_neg Bool.false_ne_true]
      split <;> bv_omega
    · rfl
  · cases l.control
    · exact (Bool.and_false _).symm
    · exact (Bool.and_true _).symm

theorem Triangle.after_fields (t : Triangle) (quarter half : Bool) :
    let u := t.after quarter half
    u.length = (if half then t.length.step else t.length) ∧ u.linear = (if quarter then t.linear.step else t.linear) ∧
    u.timer = t.timer.step ∧ u.seqPos = t.timerStep.seqPos := by
  cases quarter <;> cases half <;> exact ⟨rfl, rfl, rfl, rfl⟩

theorem ite_length_counter (half : Bool) (l : LengthCounter) :
    (if half then l.step else l).counter =
      if half && !l.halt && decide (l.counter ≠ 0) then l.counter - 1 else l.counter := by
  cases half
  · rfl
  · rw [if_pos rfl, LengthCounter.step_counter, Bool.true_and]

/-- Settles O54: each unit of a channel after one step, by the pulses of the step. -/
theorem channelUnitsStep : Obligations.ChannelUnitsStep := by
  intro a hcount last half quarter length per target pulse t u
  obtain ⟨h1, h2, h3, hphase⟩ := a.step_units
  obtain ⟨hhalf, hquarter⟩ := Apu.pulses_before hcount
  rw [hhalf, hquarter] at h1 h2 h3
  have pulses : ∀ p : Pulse, pulse p (p.after a.phase quarter half) := by
    intro p
    obtain ⟨e1, e2, e3, e4, e5⟩ := p.after_fields a.phase quarter half
    obtain ⟨f1, f2, f3⟩ := p.sweepStep_fields
    have htarget : p.sweepTarget = target p := p.sweepTarget_eq
    rw [htarget] at f1
    have hcounter : (if a.phase then p.timerStep else p).timer.counter =
        if !a.phase then p.timer.counter else if p.timer.counter = 0 then p.timer.reload else p.timer.counter - 1 := by
      cases a.phase
      · rfl
      · exact p.timer.step_counter
    have hseq : (if a.phase then p.timerStep else p).seqPos =
        if a.phase && decide (p.timer.counter = 0) then p.seqPos + 1 else p.seqPos := by
      cases a.phase <;> rfl
    refine ⟨e1.trans (ite_length_counter half p.length), ?_, ?_, ?_, e2.trans hcounter, e3.trans hseq⟩
    · rw [show per (p.after a.phase quarter half) = _ from congrArg BitVec.toNat e4]
      cases half
      · rfl
      · rw [if_pos rfl, Bool.true_and]; exact f1
    · rw [e5]
      cases half
      · rfl
      · exact f2
    · rw [e5]
      cases half
      · exact (Bool.and_true _).symm
      · exact f3.trans (Bool.and_false _).symm
  obtain ⟨e1, e2, e3, e4⟩ := t.after_fields quarter half
  obtain ⟨l1, l2⟩ := t.linear.step_fields
  have hu : u = t.after quarter half := h3
  refine ⟨h1 ▸ pulses a.pulse1, h2 ▸ pulses a.pulse2, hphase, ?_, ?_, ?_, ?_, ?_⟩
  · rw [hu, e1]; exact ite_length_counter half t.length
  · rw [hu, e2]
    cases quarter
    · rfl
    · exact l1
  · rw [hu, e2]
    cases quarter
    · exact (Bool.and_true _).symm
    · exact l2
  · rw [hu, e3]; exact t.timer.step_counter
  · rw [hu, e4]
    unfold Triangle.timerStep BitTimer.clock
    simp only [Bool.and_eq_true, decide_eq_true_eq, and_assoc]

/-! ## The mixer and the sample path (rules R435, R440, R450, R470) -/

theorem Pulse.output_eq (p : Pulse) (audio : AudioParams) : p.output audio =
    if 0x7FF < p.sweepTarget ∨ p.timer.reload.toNat < 8 ∨ p.dutyBit audio = false ∨ p.length.counter = 0 then 0
    else if p.env.constantVolume then p.env.param.toNat else p.env.decayLevel.toNat := by
  unfold Pulse.output Pulse.muted
  refine if_congr ?_ rfl ?_
  · simp only [Bool.or_eq_true, decide_eq_true_eq, Bool.not_eq_true']
    tauto
  · unfold Envelope.volume
    cases p.env.constantVolume <;> rfl

theorem Triangle.output_eq (t : Triangle) : t.output = max (15 - t.seqPos.toNat) (t.seqPos.toNat - 16) := by
  unfold Triangle.output
  split <;> omega

/-- The pulses' share of the mixer, at most 30 levels. -/
theorem pulseMix_bounds {p1 p2 : Nat} (h1 : p1 ≤ 15) (h2 : p2 ≤ 15) :
    0 ≤ pulseMix p1 p2 ∧ pulseMix p1 p2 < 1 / 2 ∧ (pulseMix p1 p2 = 0 ↔ p1 + p2 = 0) := by
  unfold pulseMix
  by_cases h : p1 + p2 = 0
  · rw [if_pos h]; exact ⟨le_refl _, by norm_num, by simp [h]⟩
  · have hpos : (0 : Rat) < (p1 : Rat) + p2 := by exact_mod_cast Nat.pos_of_ne_zero h
    have hle : (p1 : Rat) + p2 ≤ 30 := by exact_mod_cast (by omega : p1 + p2 ≤ 30)
    have hden : (100 : Rat) + 100 < 8128 / ((p1 : Rat) + p2) + 100 := by
      have : (100 : Rat) < 8128 / ((p1 : Rat) + p2) := by rw [lt_div_iff₀ hpos]; linarith
      linarith
    rw [if_neg h]
    have hval : (0 : Rat) < 9588 / 100 / (8128 / ((p1 : Rat) + p2) + 100) := div_pos (by norm_num) (by linarith)
    exact ⟨le_of_lt hval, by rw [div_lt_iff₀ (by linarith)]; linarith, iff_of_false (ne_of_gt hval) h⟩

/-- The triangle's share. -/
theorem triangleMix_bounds {tri : Nat} (ht : tri ≤ 15) :
    0 ≤ triangleMix tri ∧ triangleMix tri < 1 / 2 ∧ (triangleMix tri = 0 ↔ tri = 0) := by
  unfold triangleMix
  by_cases h : tri = 0
  · rw [if_pos h]; exact ⟨le_refl _, by norm_num, by simp [h]⟩
  · have hpos : (0 : Rat) < (tri : Rat) / 8227 := div_pos (by exact_mod_cast Nat.pos_of_ne_zero h) (by norm_num)
    have hle : (tri : Rat) ≤ 15 := by exact_mod_cast ht
    have hden : (400 : Rat) < 1 / ((tri : Rat) / 8227) + 100 := by
      have : (300 : Rat) < 1 / ((tri : Rat) / 8227) := by rw [lt_div_iff₀ hpos]; linarith
      linarith
    rw [if_neg h]
    have hval : (0 : Rat) < 15979 / 100 / (1 / ((tri : Rat) / 8227) + 100) := div_pos (by norm_num) (by linarith)
    exact ⟨le_of_lt hval, by rw [div_lt_iff₀ (by linarith)]; linarith, iff_of_false (ne_of_gt hval) h⟩

/-- After `m` mixer levels: a filter input every `n`, a sample every two filter inputs. -/
theorem SamplePath.after_levels {sp : SamplePath} {n : Nat} (hn : 1 ≤ n) (hc : sp.cycles = 0) (hd : sp.decimate = false)
    (hw : sp.writePos < Config.ringLen) (levels : List Rat) :
    let q := levels.foldl (fun r x => r.step n x) sp
    q.cycles = levels.length % n ∧ q.decimate = decide (levels.length / n % 2 = 1) ∧
    q.writePos = (sp.writePos + levels.length / n / 2) % Config.ringLen ∧
    (levels.length / n / 2 = 0 → q.ring = sp.ring) := by
  induction levels using List.reverseRecOn with
  | nil => exact ⟨by simpa using hc, by simpa using hd, by simpa using (Nat.mod_eq_of_lt hw).symm, fun _ => rfl⟩
  | append_singleton levels x ih =>
    obtain ⟨ic, id, iw, ir⟩ := ih
    rw [List.foldl_append, List.foldl_cons, List.foldl_nil, List.length_append, List.length_singleton]
    set r := levels.foldl (fun r x => r.step n x) sp
    set m := levels.length
    have hlt : m % n < n := Nat.mod_lt _ hn
    have hdm := Nat.div_add_mod m n
    unfold SamplePath.step
    rw [ic]
    by_cases hfull : n ≤ m % n + 1
    · have hnext : m + 1 = n * (m / n + 1) := by rw [Nat.mul_add, Nat.mul_one]; omega
      have hdiv : (m + 1) / n = m / n + 1 := by rw [hnext, Nat.mul_div_cancel_left _ hn]
      have hmod : (m + 1) % n = 0 := by rw [hnext, Nat.mul_mod_right]
      rw [if_pos hfull, hdiv, hmod]
      unfold SamplePath.filterInput
      dsimp only
      rw [id]
      by_cases hodd : m / n % 2 = 1
      · have hpos : 0 < m / n := Nat.pos_of_ne_zero fun h0 => by rw [h0] at hodd; cases hodd
        rw [decide_eq_true hodd, Bool.not_true, if_neg Bool.false_ne_true]
        refine ⟨rfl, (decide_eq_false (by omega)).symm, ?_, fun h => absurd h (Nat.ne_of_gt (Nat.div_pos (Nat.succ_le_succ hpos) (by decide)))⟩
        show (r.writePos + 1) % _ = _
        rw [iw, Nat.mod_add_mod]
        congr 1; omega
      · rw [decide_eq_false hodd, Bool.not_false, if_pos rfl]
        refine ⟨rfl, (decide_eq_true (by omega)).symm, ?_, fun h => ir (by omega)⟩
        rw [show (m / n + 1) / 2 = m / n / 2 by omega]; exact iw
    · have hdiv : (m + 1) / n = m / n := by
        rw [Nat.div_eq_iff (by omega)]
        have : m / n * n = n * (m / n) := Nat.mul_comm _ _
        omega
      have hmod : (m + 1) % n = m % n + 1 := by
        have := Nat.div_add_mod (m + 1) n
        rw [hdiv] at this; omega
      rw [if_neg hfull, hdiv, hmod]
      exact ⟨rfl, id, iw, ir⟩

/-- Settles O57: the levels, the mixer's formula and range, and the counts of the sample path. -/
theorem mixerLevelsAndSampleCounts : Obligations.MixerLevelsAndSampleCounts := by
  refine ⟨fun a => ?_, by decide, fun p1 p2 tri h1 h2 h3 => ?_, fun sp n k levels hn hc hd hw => ?_, by decide⟩
  · refine ⟨?_, a.step_sample⟩
    unfold Apu.mix
    rw [Pulse.output_eq, Pulse.output_eq, Pulse.sweepTarget_eq, Pulse.sweepTarget_eq, Triangle.output_eq]
    rfl
  · obtain ⟨a1, a2, a3⟩ := pulseMix_bounds h1 h2
    obtain ⟨b1, b2, b3⟩ := triangleMix_bounds h3
    refine ⟨?_, add_nonneg a1 b1, ?_, ?_⟩
    · unfold mixLevel pulseMix triangleMix
      norm_num
    · unfold mixLevel; linarith
    · unfold mixLevel
      rw [add_eq_zero_iff_of_nonneg a1 b1, a3, b3, Nat.add_eq_zero_iff, and_assoc]
  · obtain ⟨qc, qd, qw, qr⟩ := SamplePath.after_levels hn hc hd hw levels
    refine ⟨fun hlen => ?_, fun hlen => ?_⟩
    · have hdiv : levels.length / n = 2 * k := by
        rw [hlen, show 2 * n * k = n * (2 * k) by ring, Nat.mul_div_cancel_left _ hn]
      have hmod : levels.length % n = 0 := by
        rw [hlen, show 2 * n * k = n * (2 * k) by ring, Nat.mul_mod_right]
      rw [hdiv] at qd qw
      exact ⟨by rw [qw, Nat.mul_div_cancel_left _ (by decide)], qc.trans hmod, qd.trans (decide_eq_false (by omega))⟩
    · have hzero : levels.length / n / 2 = 0 := by
        rw [Nat.div_div_eq_div_mul, Nat.div_eq_of_lt (by rw [Nat.mul_comm]; exact hlen)]
      exact ⟨by rw [qw, hzero, Nat.add_zero, Nat.mod_eq_of_lt hw], qr hzero⟩

end Sys2Proof.Machine
end

section
/-! PROOF. One dot of the PPU around its rendering: PPUDATA, the v-blank edges and the raster position. -/

namespace Sys2Proof.Machine

/-! ## What a register access leaves alone -/

theorem Ppu.registerAccess_frame (p : Ppu) :
    p.registerAccess.scanline = p.scanline ∧ p.registerAccess.dot = p.dot ∧
      p.registerAccess.frameComplete = p.frameComplete ∧ p.registerAccess.spriteOverflow = p.spriteOverflow := by
  unfold Ppu.registerAccess
  split
  case h_5 => unfold Ppu.writeScroll; split <;> exact ⟨rfl, rfl, rfl, rfl⟩
  case h_6 => unfold Ppu.writeAddr; split <;> exact ⟨rfl, rfl, rfl, rfl⟩
  case h_7 => unfold Ppu.writeData; dsimp only; split <;> exact ⟨rfl, rfl, rfl, rfl⟩
  all_goals exact ⟨rfl, rfl, rfl, rfl⟩

theorem Ppu.registerAccess_status {p : Ppu} (hrw : p.cpuRw = .read) (hreg : p.cpuReg = 2) :
    p.registerAccess = p.readStatus := by
  unfold Ppu.registerAccess; rw [hrw, hreg]; rfl

/-- Only a PPUSTATUS read clears the v-blank flag. -/
theorem Ppu.registerAccess_vblank {p : Ppu} (h : ¬(p.cpuRw = .read ∧ p.cpuReg = 2)) :
    p.registerAccess.vblankStarted = p.vblankStarted := by
  unfold Ppu.registerAccess
  split
  case h_5 => unfold Ppu.writeScroll; split <;> rfl
  case h_6 => unfold Ppu.writeAddr; split <;> rfl
  case h_7 => unfold Ppu.writeData; dsimp only; split <;> rfl
  case h_8 hrw hreg => exact absurd ⟨hrw, BitVec.eq_of_toNat_eq hreg⟩ h
  all_goals rfl

theorem Ppu.cpuAccess_frame (p : Ppu) :
    p.cpuAccess.scanline = p.scanline ∧ p.cpuAccess.dot = p.dot ∧ p.cpuAccess.frameComplete = p.frameComplete ∧
      p.cpuAccess.spriteOverflow = p.spriteOverflow := by
  cases h : p.access with
  | false => rw [Ppu.cpuAccess_idle h]; exact ⟨rfl, rfl, rfl, rfl⟩
  | true =>
    rw [Ppu.cpuAccess_busy h]
    exact Ppu.registerAccess_frame _

theorem Ppu.cpuAccess_vblank (p : Ppu) : p.cpuAccess.vblankStarted =
    (p.vblankStarted && !(p.access && decide (p.cpuRw = .read) && decide (p.cpuReg = 2))) := by
  cases h : p.access with
  | false => rw [Ppu.cpuAccess_idle h]; exact (Bool.and_true _).symm
  | true =>
    rw [Ppu.cpuAccess_busy h, Bool.true_and]
    by_cases hs : p.cpuRw = .read ∧ p.cpuReg = 2
    · obtain ⟨hrw, hreg⟩ := hs
      rw [Ppu.registerAccess_status (p := { p.endStrobes with access := false }) hrw hreg, decide_eq_true hrw,
        decide_eq_true hreg]
      exact (Bool.and_false _).symm
    · have hoff : (decide (p.cpuRw = .read) && decide (p.cpuReg = 2)) = false := by
        rw [Bool.eq_false_iff]
        simpa only [ne_eq, Bool.and_eq_true, decide_eq_true_eq] using hs
      rw [Ppu.registerAccess_vblank (p := { p.endStrobes with access := false }) hs, hoff]
      exact (Bool.and_true _).symm

/-! ## What the rendering of a dot leaves alone -/

/-- The sub-steps of rendering move neither the raster nor the flags of the v-blank, and never clear the overflow. -/
theorem Ppu.render_frame {p q : Ppu} (h : p.render = .ok q) :
    q.scanline = p.scanline ∧ q.dot = p.dot ∧ q.vblankStarted = p.vblankStarted ∧ q.frameComplete = p.frameComplete ∧
      (p.spriteOverflow = true → q.spriteOverflow = true) := by
  unfold Ppu.render at h
  split at h
  · cases h
  · next r hr =>
    cases h
    obtain ⟨a, x, n, at_, lo, hi, lo', sl, er⟩ := Ppu.front_only hr
    obtain ⟨v, e1⟩ := r.updateScroll_only
    obtain ⟨m, k, o, e2, ho⟩ := r.updateScroll.evaluateSprites_only
    obtain ⟨b, c, e3⟩ := r.updateScroll.evaluateSprites.shiftBackground_only
    obtain ⟨l, e4⟩ := r.updateScroll.evaluateSprites.shiftBackground.shiftSprites_only
    rw [e4, e3, e2]
    rw [e1] at ho ⊢
    rw [er] at ho ⊢
    exact ⟨rfl, rfl, rfl, rfl, ho⟩

/-- A dot is its register access, sub-steps that leave the raster and the v-blank flags alone, and the edges. -/
theorem Ppu.step_edges {p q : Ppu} (h : p.step = .ok q) :
    ∃ r : Ppu, q = r.vblankEdges.advanceCounters ∧ r.scanline = p.scanline ∧ r.dot = p.dot ∧
      r.vblankStarted = p.cpuAccess.vblankStarted ∧ r.frameComplete = p.frameComplete ∧
      (p.spriteOverflow = true → r.spriteOverflow = true) := by
  obtain ⟨k1, k2, k3, k4⟩ := p.cpuAccess_frame
  unfold Ppu.step at h
  dsimp only at h
  split at h
  · cases h
  · next r hr =>
    cases h
    refine ⟨r, rfl, ?_⟩
    split at hr
    · obtain ⟨r1, r2, r3, r4, r5⟩ := Ppu.render_frame hr
      exact ⟨r1.trans k1, r2.trans k2, r3, r4.trans k3, fun ho => r5 (k4.trans ho)⟩
    · cases hr
      exact ⟨k1, k2, rfl, k3, k4.trans⟩

/-- The counters and flags that end a dot, all in one. -/
theorem Ppu.edges_only (p : Ppu) : ∃ v f o d l x, p.vblankEdges.advanceCounters =
    { p with vblankStarted := v, frameComplete := f, spriteOverflow := o, dot := d, scanline := l, oddFrame := x } := by
  obtain ⟨v, f, o, h1⟩ := p.vblankEdges_only
  obtain ⟨d, l, x, h2⟩ := p.vblankEdges.advanceCounters_only
  exact ⟨v, f, o, d, l, x, by rw [h2, h1]⟩

theorem Ppu.advanceCounters_flags (p : Ppu) :
    p.advanceCounters.vblankStarted = p.vblankStarted ∧ p.advanceCounters.frameComplete = p.frameComplete ∧
      p.advanceCounters.spriteOverflow = p.spriteOverflow := by
  obtain ⟨d, l, x, h⟩ := p.advanceCounters_only
  rw [h]; exact ⟨rfl, rfl, rfl⟩

theorem Ppu.statusByte_toNat (p : Ppu) :
    p.statusByte.toNat = 128 * p.vblankStarted.toNat + 64 * p.sprite0Hit.toNat + 32 * p.spriteOverflow.toNat := by
  unfold Ppu.statusByte
  cases p.vblankStarted <;> cases p.sprite0Hit <;> cases p.spriteOverflow <;> rfl

/-- Settles O47: the register access, and then the edges of the two dots. -/
theorem vblankFlag : Obligations.VblankFlag := by
  intro p q h
  obtain ⟨r, rfl, hline, hdot, hv, hf, ho⟩ := Ppu.step_edges h
  obtain ⟨a1, a2, a3⟩ := r.vblankEdges.advanceCounters_flags
  have set_ : p.scanline = 241 → p.dot = 1 → r.vblankEdges = { r with vblankStarted := true, frameComplete := true } := by
    intro hl hd; unfold Ppu.vblankEdges; rw [hline, hdot, if_pos ⟨hl, hd⟩]
  have clear : p.scanline = 261 → p.dot = 1 → r.vblankEdges =
      { r with vblankStarted := false, frameComplete := false, spriteOverflow := false } := by
    intro hl hd
    unfold Ppu.vblankEdges
    rw [hline, hdot, if_neg (by omega), if_pos ⟨hl, hd⟩]
  have keep : ¬(p.scanline = 241 ∧ p.dot = 1) → ¬(p.scanline = 261 ∧ p.dot = 1) → r.vblankEdges = r := by
    intro h1 h2; unfold Ppu.vblankEdges; rw [hline, hdot, if_neg h1, if_neg h2]
  refine ⟨fun ha hrw hreg => ?_, fun hover hnot => ?_, fun hl hd => ?_, fun hl hd => ?_, fun h1 h2 => ?_⟩
  · obtain ⟨q', hq, hk⟩ | ⟨-, -, he⟩ := p.step_cases
    · rw [h] at hq
      cases hq
      rw [hk.cpuData, hk.w, Ppu.cpuAccess_busy ha, Ppu.registerAccess_status (p := { p.endStrobes with access := false }) hrw hreg]
      exact ⟨Ppu.statusByte_toNat _, rfl⟩
    · rw [h] at he; cases he
  · rw [a3]
    by_cases h241 : p.scanline = 241 ∧ p.dot = 1
    · rw [set_ h241.1 h241.2]; exact ho hover
    · rw [keep h241 hnot]; exact ho hover
  · rw [a1, a2, set_ hl hd]; exact ⟨rfl, rfl⟩
  · rw [a1, a2, a3, clear hl hd]; exact ⟨rfl, rfl, rfl⟩
  · rw [a1, a2, keep h1 h2]; exact ⟨hf, hv.trans p.cpuAccess_vblank⟩

/-! ## The raster (rules R392, R393, R492) -/

/-- The raster is where a state left it. -/
def State.SameRaster (s t : State) : Prop := t.ppu.scanline = s.ppu.scanline ∧ t.ppu.dot = s.ppu.dot

theorem State.SameRaster.trans {s t u : State} (h : s.SameRaster t) (k : t.SameRaster u) : s.SameRaster u :=
  ⟨k.1.trans h.1, k.2.trans h.2⟩

theorem Ppu.advanceCounters_position {p : Ppu} (hl : p.scanline ≤ 261) (hd : p.dot ≤ 340) :
    p.advanceCounters.position = (p.position + 1) % 89342 ∧ p.advanceCounters.scanline ≤ 261 ∧
      p.advanceCounters.dot ≤ 340 := by
  unfold Ppu.advanceCounters Ppu.position
  split
  · split <;> dsimp only <;> omega
  · dsimp only; omega

theorem State.servePpuRead_raster {s t : State} (h : s.servePpuRead = .ok t) : s.SameRaster t := by
  unfold State.servePpuRead at h
  split at h
  · split at h
    · cases h
    · cases h; exact ⟨rfl, rfl⟩
  · cases h; exact ⟨rfl, rfl⟩

theorem State.servePpuWrite_raster {s t : State} (h : s.servePpuWrite = .ok t) : s.SameRaster t := by
  unfold State.servePpuWrite at h
  split at h
  · split at h
    · cases h
      unfold State.lostPpuWrite
      split <;> exact ⟨rfl, rfl⟩
    · unfold State.ppuBusWrite at h
      split at h
      · cases h
      · cases h; exact ⟨rfl, rfl⟩
  · cases h; exact ⟨rfl, rfl⟩

/-- One dot moves the raster by one. -/
theorem State.ppuStep_position {s t : State} (h : s.ppuStep = .ok t) (hl : s.ppu.scanline ≤ 261) (hd : s.ppu.dot ≤ 340) :
    t.ppu.position = (s.ppu.position + 1) % 89342 ∧ t.ppu.scanline ≤ 261 ∧ t.ppu.dot ≤ 340 := by
  unfold State.ppuStep at h
  split at h
  · cases h
  · next q hq =>
    obtain ⟨u, hu, ht⟩ := andThen_eq_ok h
    obtain ⟨e1, e2⟩ := (State.servePpuRead_raster hu).trans (State.servePpuWrite_raster ht)
    obtain ⟨r, rfl, hline, hdot, -⟩ := Ppu.step_edges hq
    obtain ⟨v, f, o, he⟩ := r.vblankEdges_only
    have hmoved := Ppu.advanceCounters_position (p := r.vblankEdges) (by rw [he]; exact hline ▸ hl) (by rw [he]; exact hdot ▸ hd)
    have hpos : r.vblankEdges.position = s.ppu.position := by
      rw [he]; show r.scanline * 341 + r.dot = _; rw [hline, hdot]; rfl
    rw [hpos] at hmoved
    unfold Ppu.position at hmoved ⊢
    rw [e1, e2]
    exact hmoved

theorem State.ppuSteps_position {s t : State} (h : s.ppuSteps = .ok t) (hl : s.ppu.scanline ≤ 261) (hd : s.ppu.dot ≤ 340) :
    t.ppu.position = (s.ppu.position + 3) % 89342 := by
  obtain ⟨v, hv, ht⟩ := andThen_eq_ok h
  obtain ⟨u, hu, hv⟩ := andThen_eq_ok hv
  obtain ⟨p1, l1, d1⟩ := State.ppuStep_position hu hl hd
  obtain ⟨p2, l2, d2⟩ := State.ppuStep_position hv l1 d1
  obtain ⟨p3, -, -⟩ := State.ppuStep_position ht l2 d2
  omega

theorem State.busWrite_raster {s t : State} {a : Word} {v : Byte} (h : s.busWrite a v = .ok t) : s.SameRaster t := by
  unfold State.busWrite at h
  split at h
  case h_10 =>
    split at h
    · cases h
    · cases h; exact ⟨rfl, rfl⟩
  case h_8 | h_9 | h_11 => cases h
  all_goals (cases h; exact ⟨rfl, rfl⟩)

theorem State.driveBus_raster {s t : State} (h : s.driveBus = .ok t) : s.SameRaster t := by
  unfold State.driveBus at h
  split at h
  · exact State.busWrite_raster h
  · split at h <;> cases h <;> exact ⟨rfl, rfl⟩

/-- A completed read has no effect on the PPU. -/
theorem State.completeRead_ppu {s t : State} {m : Master} (h : s.completeRead m = .ok t) : t.ppu = s.ppu := by
  unfold State.completeRead at h
  split at h
  · cases h; rfl
  · split at h
    · cases h
    · next v u hu =>
      cases h
      unfold State.busRead at hu
      split at hu
      case h_10 =>
        split at hu
        · cases hu
        · cases hu; rfl
      case h_8 | h_9 => cases hu
      all_goals (cases hu; rfl)

theorem State.busCycle_position {s t : State} {m : Master} (h : s.busCycle m = .ok t) (hl : s.ppu.scanline ≤ 261)
    (hd : s.ppu.dot ≤ 340) : t.ppu.position = (s.ppu.position + 3) % 89342 := by
  obtain ⟨s1, s2, s3, h1, h2, h3, rfl⟩ := State.busCycle_eq_ok h
  obtain ⟨e1, e2⟩ := State.driveBus_raster h1
  have hdots := State.ppuSteps_position h2 (e1 ▸ hl) (e2 ▸ hd)
  show s3.ppu.position = _
  rw [State.completeRead_ppu h3]
  refine hdots.trans ?_
  unfold Ppu.position
  rw [e1, e2]

/-- Settles O39: a tick is three dots. -/
theorem tickMovesTheRaster : Obligations.TickMovesTheRaster := by
  intro s t hc h
  obtain ⟨-, hdma | ⟨c, hcpu⟩⟩ := State.tick_cases h
  · exact State.busCycle_position (s := s.dmaStep) hdma hc.scanline hc.dot
  · exact State.busCycle_position (s := s.withCpu c) hcpu hc.scanline hc.dot

/-! ## PPUDATA (rules R354, R355) -/

theorem paletteIndex_eq (a : BitVec 14) : paletteIndex a = a.toNat % 32 := by
  unfold paletteIndex
  rw [BitVec.toNat_and]
  exact Nat.and_two_pow_sub_one_eq_mod a.toNat 5

/-- With rendering off, the data of a PPUDATA access is what the rules give. -/
theorem Ppu.contended_off {p : Ppu} (h : p.renderingEnabled = false) : p.contended = false := by
  unfold Ppu.contended; rw [h, Bool.false_and]

theorem Ppu.dataOr_off {p : Ppu} (h : p.renderingEnabled = false) (d : Byte) : p.dataOr d = d := by
  unfold Ppu.dataOr; rw [Ppu.contended_off h, if_neg Bool.false_ne_true]

/-- The PPU as an access finds it: the strobes of the step before ended. -/
def Ppu.opened (p : Ppu) : Ppu := { p.endStrobes with access := false }

theorem Ppu.cpuAccess_readData {p : Ppu} (ha : p.access = true) (hrw : p.cpuRw = .read) (hreg : p.cpuReg = 7) :
    p.cpuAccess = p.opened.readData := by
  rw [Ppu.cpuAccess_busy ha]
  show p.opened.registerAccess = _
  unfold Ppu.registerAccess
  rw [show p.opened.cpuRw = .read from hrw, show p.opened.cpuReg = 7 from hreg]
  rfl

theorem Ppu.cpuAccess_writeData {p : Ppu} (ha : p.access = true) (hrw : p.cpuRw = .write) (hreg : p.cpuReg = 7) :
    p.cpuAccess = p.opened.writeData p.cpuData := by
  rw [Ppu.cpuAccess_busy ha]
  show p.opened.registerAccess = _
  unfold Ppu.registerAccess
  rw [show p.opened.cpuRw = .write from hrw, show p.opened.cpuReg = 7 from hreg]
  rfl

/-- A dot that asks for a VRAM write. -/
theorem State.ppuStep_writes {s : State} {q : Ppu} (h : s.ppu.step = .ok q) (hr : q.vramRd = false) (hw : q.vramWr = true) :
    s.ppuStep = State.ppuBusWrite { s with ppu := q } q.vramAddr q.vramData := by
  unfold State.ppuStep
  rw [h]
  simp [State.servePpuRead, State.servePpuWrite, hr, hw]

/-- Settles O45: the dot of the read asks for the byte, and the next one moves it into the buffer. -/
theorem ppuDataReadIsBuffered : Obligations.PpuDataReadIsBuffered := by
  intro s d hoff ha hrw hreg hlow hd
  have hread : s.ppu.cpuAccess = s.ppu.opened.readData := Ppu.cpuAccess_readData ha hrw hreg
  have hoff' : s.ppu.opened.renderingEnabled = false := hoff
  have h1 : s.ppu.step = .ok s.ppu.opened.readData.vblankEdges.advanceCounters :=
    hread ▸ Ppu.step_off (by rw [hread]; exact hoff)
  obtain ⟨v, f, o, dt, l, x, e1⟩ := s.ppu.opened.readData.edges_only
  rw [e1] at h1
  set q : Ppu := { s.ppu.opened.readData with
    vblankStarted := v, frameComplete := f, spriteOverflow := o, dot := dt, scanline := l, oddFrame := x } with hq
  have hfirst := State.ppuStep_reads h1 rfl rfl hd
  set p : Ppu := { q with vramData := d } with hp
  have hidle : p.cpuAccess = p.endStrobes := Ppu.cpuAccess_idle rfl
  have h2 : p.step = .ok p.endStrobes.vblankEdges.advanceCounters := hidle ▸ Ppu.step_off (by rw [hidle]; exact hoff)
  obtain ⟨v', f', o', dt', l', x', e2⟩ := p.endStrobes.edges_only
  rw [e2] at h2
  have hfill : p.fillPending = true := by
    show (!s.ppu.opened.contended) = true
    rw [Ppu.contended_off hoff']; rfl
  refine ⟨_, _, hfirst, State.ppuStep_quiet (s := { s with ppu := p }) h2 rfl rfl, ?_, ?_, rfl, rfl⟩
  · show s.ppu.opened.dataOr (if s.ppu.opened.dataAddr.toNat < 0x3F00 then _ else _) = _
    rw [Ppu.dataOr_off hoff', if_pos (show s.ppu.opened.dataAddr.toNat < 0x3F00 from hlow)]
    rfl
  · show (if p.fillPending then p.vramData else p.dataBuffer) = d
    rw [hfill]; rfl

/-- Below the palette a PPUDATA write asks for a VRAM write, and the dot ends in it. -/
theorem State.ppuStep_writeVram {s : State} (hoff : s.ppu.renderingEnabled = false) (ha : s.ppu.access = true)
    (hrw : s.ppu.cpuRw = .write) (hreg : s.ppu.cpuReg = 7) (hlow : s.ppu.dataAddr.toNat < 0x3F00) :
    ∃ q : Ppu, s.ppuStep = State.ppuBusWrite { s with ppu := q } s.ppu.dataAddr s.ppu.cpuData ∧
      q.v = s.ppu.v + (if s.ppu.ctrl.vramIncrement then 32 else 1) ∧ q.palette = s.ppu.palette ∧ q.access = false ∧
      q.renderingEnabled = false := by
  have hq : s.ppu.cpuAccess = { s.ppu.opened with
      vramAddr := s.ppu.dataAddr, vramData := s.ppu.cpuData, vramWr := true,
      v := s.ppu.v + (if s.ppu.ctrl.vramIncrement then 32 else 1), contention := s.ppu.contention + 1 } := by
    rw [Ppu.cpuAccess_writeData ha hrw hreg]
    unfold Ppu.writeData
    rw [Ppu.dataOr_off (p := s.ppu.opened) hoff,
      if_neg (show ¬ 0x3F00 ≤ s.ppu.opened.dataAddr.toNat from Nat.not_le.2 hlow)]
    rfl
  have hstep := Ppu.step_off (p := s.ppu) (by rw [hq]; exact hoff)
  obtain ⟨v', f, o, d, l, x, e⟩ := s.ppu.cpuAccess.edges_only
  rw [e, hq] at hstep
  exact ⟨_, State.ppuStep_writes hstep rfl rfl, rfl, rfl, rfl, hoff⟩

/-- From the palette on a PPUDATA write is done by the access itself. -/
theorem Ppu.cpuAccess_writePalette {p : Ppu} (hoff : p.renderingEnabled = false) (ha : p.access = true)
    (hrw : p.cpuRw = .write) (hreg : p.cpuReg = 7) (hge : 0x3F00 ≤ p.dataAddr.toNat) :
    p.cpuAccess = { p.opened with
      palette := p.palette.write (p.dataAddr.toNat % 32) p.cpuData,
      v := p.v + (if p.ctrl.vramIncrement then 32 else 1), contention := p.contention + 1 } := by
  rw [Ppu.cpuAccess_writeData ha hrw hreg]
  unfold Ppu.writeData
  rw [Ppu.dataOr_off (p := p.opened) hoff, if_pos (show 0x3F00 ≤ p.opened.dataAddr.toNat from hge), paletteIndex_eq]
  rfl

/-- Settles O46: the dot of the write, by where its address lies. -/
theorem ppuDataWrite : Obligations.PpuDataWrite := by
  intro s hoff ha hrw hreg a v
  refine ⟨fun hlow => ?_, fun hge hlt => ?_, fun hge => ?_⟩
  · obtain ⟨q, hq, -⟩ := State.ppuStep_writeVram hoff ha hrw hreg (show a.toNat < 0x3F00 by omega)
    rw [hq]
    unfold State.ppuBusWrite
    exact if_pos hlow
  · obtain ⟨q, hq, hv, hp, -⟩ := State.ppuStep_writeVram hoff ha hrw hreg hlt
    refine ⟨{ s with ppu := q, vram := s.vram.write (vramIndex s.cart.mirroring a) s.ppu.cpuData }, ?_, rfl, hv, hp⟩
    rw [hq]
    unfold State.ppuBusWrite
    exact if_neg (Nat.not_lt.2 hge)
  · have hq := Ppu.cpuAccess_writePalette (p := s.ppu) hoff ha hrw hreg hge
    have hstep := Ppu.step_off (p := s.ppu) (by rw [hq]; exact hoff)
    obtain ⟨v', f, o, d, l, x, e⟩ := s.ppu.cpuAccess.edges_only
    rw [e, hq] at hstep
    exact ⟨_, State.ppuStep_quiet hstep rfl rfl, rfl, rfl, rfl⟩

end Sys2Proof.Machine
end

section
/-! PROOF. The rendering of a dot, what it shows: the scroll address, the pixel, and the sprites evaluated (rules R363 to
R372, R380 to R384). -/

namespace Sys2Proof.Machine

/-- A dot with rendering on and no access waiting, sub-step by sub-step: the fields the statements speak of, from the
state `r` that the fetches leave. -/
theorem Ppu.step_fields {p q : Ppu} (h : p.step = .ok q) (ha : p.access = false) (hr : p.renderingEnabled = true) :
    ∃ r, p.endStrobes.reload.emitPixel.fetchBackground.fetchSprite = .ok r ∧
      q = r.updateScroll.evaluateSprites.shiftBackground.shiftSprites.vblankEdges.advanceCounters ∧
      q.v = r.updateScroll.v ∧ q.bgPat = r.shiftBackground.bgPat ∧ q.bgPal = r.shiftBackground.bgPal ∧
      q.palLatch = r.palLatch ∧ q.slots = r.shiftSprites.slots ∧ q.frameBuffer = r.frameBuffer := by
  obtain ⟨r, hfront, rfl⟩ := Ppu.step_rendering h ha hr
  obtain ⟨m, n, o, v, f, x, e, -⟩ := r.tail_only
  exact ⟨r, hfront, rfl, by rw [e], by rw [e], by rw [e], by rw [e], by rw [e], by rw [e]⟩

/-! ## The scroll address (rules R369 to R372) -/

theorem joinScroll_toNat (fy : BitVec 3) (nt : BitVec 2) (cy cx : BitVec 5) :
    (joinScroll fy nt cy cx).toNat = fy.toNat * 4096 + nt.toNat * 1024 + cy.toNat * 32 + cx.toNat := by
  simp only [joinScroll, toNat_append_eq]
  omega

/-- An address is its four fields. -/
theorem joinScroll_fields (v : BitVec 15) : joinScroll (fineY v) (nametable v) (coarseY v) (coarseX v) = v := by
  apply BitVec.eq_of_toNat_eq
  have hv := v.isLt
  rw [joinScroll_toNat]
  simp only [fineY, nametable, coarseY, coarseX, BitVec.extractLsb'_toNat, Nat.shiftRight_eq_div_pow]
  omega

section Fields

variable (fy : BitVec 3) (nt : BitVec 2) (cy cx : BitVec 5)

theorem setCoarseX_joinScroll (x : BitVec 5) : setCoarseX (joinScroll fy nt cy cx) x = joinScroll fy nt cy x := by
  rw [setCoarseX, fineY_joinScroll, nametable_joinScroll, coarseY_joinScroll]

theorem setCoarseY_joinScroll (y : BitVec 5) : setCoarseY (joinScroll fy nt cy cx) y = joinScroll fy nt y cx := by
  rw [setCoarseY, fineY_joinScroll, nametable_joinScroll, coarseX_joinScroll]

theorem setNametable_joinScroll (n : BitVec 2) : setNametable (joinScroll fy nt cy cx) n = joinScroll fy n cy cx := by
  rw [setNametable, fineY_joinScroll, coarseY_joinScroll, coarseX_joinScroll]

theorem setFineY_joinScroll (y : BitVec 3) : setFineY (joinScroll fy nt cy cx) y = joinScroll y nt cy cx := by
  rw [setFineY, nametable_joinScroll, coarseY_joinScroll, coarseX_joinScroll]

theorem incrementX_joinScroll : incrementX (joinScroll fy nt cy cx) =
    if cx = 31 then joinScroll fy (nt ^^^ 0b01) cy 0 else joinScroll fy nt cy (cx + 1) := by
  rw [incrementX, coarseX_joinScroll, nametable_joinScroll, setCoarseX_joinScroll, setCoarseX_joinScroll,
    setNametable_joinScroll]

theorem incrementY_joinScroll : incrementY (joinScroll fy nt cy cx) =
    if fy.toNat < 7 then joinScroll (fy + 1) nt cy cx
    else if cy = 29 then joinScroll 0 (nt ^^^ 0b10) 0 cx
    else if cy = 31 then joinScroll 0 nt 0 cx
    else joinScroll 0 nt (cy + 1) cx := by
  rw [incrementY, fineY_joinScroll, setFineY_joinScroll, setFineY_joinScroll]
  dsimp only
  rw [coarseY_joinScroll, nametable_joinScroll, setCoarseY_joinScroll, setCoarseY_joinScroll, setNametable_joinScroll]

/-- Within a row of tiles. -/
theorem incrementX_iterate (n : Nat) (h : cx.toNat + n ≤ 31) :
    incrementX^[n] (joinScroll fy nt cy cx) = joinScroll fy nt cy (cx + BitVec.ofNat 5 n) := by
  induction n with
  | zero => rw [BitVec.add_zero]; rfl
  | succ n ih =>
    rw [Function.iterate_succ_apply', ih (by omega), incrementX_joinScroll, if_neg (by bv_omega)]
    congr 1
    bv_omega

/-- The 32 tiles of a row, from any of them on. -/
theorem incrementX_iterate_row : incrementX^[32] (joinScroll fy nt cy cx) = joinScroll fy (nt ^^^ 0b01) cy cx := by
  have hcx := cx.isLt
  rw [show 32 = cx.toNat + (1 + (31 - cx.toNat)) by omega, Function.iterate_add_apply, Function.iterate_add_apply,
    incrementX_iterate fy nt cy cx _ (by omega), Function.iterate_one, incrementX_joinScroll, if_pos (by bv_omega),
    incrementX_iterate fy _ cy 0 _ (by rw [show (0 : BitVec 5).toNat = 0 from rfl]; omega)]
  congr 1
  bv_omega

/-- The eight lines of a tile, from the first on. -/
theorem incrementY_iterate_tile : incrementY^[8] (joinScroll 0 nt cy cx) =
    if cy = 29 then joinScroll 0 (nt ^^^ 0b10) 0 cx
    else if cy = 31 then joinScroll 0 nt 0 cx
    else joinScroll 0 nt (cy + 1) cx := by
  have lines : ∀ n ≤ 7, incrementY^[n] (joinScroll 0 nt cy cx) = joinScroll (BitVec.ofNat 3 n) nt cy cx := by
    intro n hn
    induction n with
    | zero => rfl
    | succ n ih =>
      rw [Function.iterate_succ_apply', ih (by omega), incrementY_joinScroll, if_pos (by rw [BitVec.toNat_ofNat]; omega)]
      congr 1
      rw [BitVec.ofNat_add]
      rfl
  rw [show 8 = 7 + 1 from rfl, Function.iterate_succ_apply', lines 7 (Nat.le_refl _), incrementY_joinScroll,
    if_neg (by decide)]

/-- The 30 rows of a nametable, from its top on. -/
theorem incrementY_iterate_nametable : incrementY^[240] (joinScroll 0 nt 0 cx) = joinScroll 0 (nt ^^^ 0b10) 0 cx := by
  have rows : ∀ n ≤ 29, incrementY^[8 * n] (joinScroll 0 nt 0 cx) = joinScroll 0 nt (BitVec.ofNat 5 n) cx := by
    intro n hn
    induction n with
    | zero => rfl
    | succ n ih =>
      rw [Nat.mul_succ, Nat.add_comm, Function.iterate_add_apply, ih (by omega), incrementY_iterate_tile,
        if_neg (by bv_omega), if_neg (by bv_omega), BitVec.ofNat_add]
      rfl
  rw [show 240 = 8 + 8 * 29 from rfl, Function.iterate_add_apply, rows 29 (Nat.le_refl _), incrementY_iterate_tile]
  exact if_pos rfl

end Fields

/-- The bits that the two copies take from `t`. -/
theorem horizontalMask_getLsbD {k : Nat} (hk : k < 15) :
    (0x041F : BitVec 15).getLsbD k = decide (k < 5 ∨ k = 10) ∧
      (0x7BE0 : BitVec 15).getLsbD k = !decide (k < 5 ∨ k = 10) := by
  interval_cases k <;> decide

theorem copies_getLsbD (v t : BitVec 15) {k : Nat} (hk : k < 15) :
    (copyHorizontal v t).getLsbD k = (if k < 5 ∨ k = 10 then t.getLsbD k else v.getLsbD k) ∧
      (copyVertical v t).getLsbD k = (if k < 5 ∨ k = 10 then v.getLsbD k else t.getLsbD k) := by
  obtain ⟨h1, h2⟩ := horizontalMask_getLsbD hk
  unfold copyHorizontal copyVertical
  rw [BitVec.getLsbD_or, BitVec.getLsbD_or, BitVec.getLsbD_and, BitVec.getLsbD_and, BitVec.getLsbD_and,
    BitVec.getLsbD_and, h1, h2]
  by_cases h : k < 5 ∨ k = 10 <;> simp [h]

theorem Ppu.renderLine_iff (p : Ppu) : p.renderLine = true ↔ p.scanline ≤ 239 ∨ p.scanline = 261 := by
  unfold Ppu.renderLine Ppu.visibleLine Ppu.preRender
  rw [Bool.or_eq_true, decide_eq_true_eq, decide_eq_true_eq]

theorem Ppu.dotIn_iff (p : Ppu) (a b : Nat) : p.dotIn a b = true ↔ a ≤ p.dot ∧ p.dot ≤ b := by
  unfold Ppu.dotIn
  rw [Bool.and_eq_true, decide_eq_true_eq, decide_eq_true_eq]

/-- The scroll update by its place on the line. -/
theorem Ppu.updateScroll_v (p : Ppu) : p.updateScroll.v =
    if ¬(p.scanline ≤ 239 ∨ p.scanline = 261) then p.v
    else if p.dot = 256 then incrementY (incrementX p.v)
    else if p.dot % 8 = 0 ∧ p.dot ≠ 0 ∧ (p.dot < 256 ∨ 320 < p.dot) then incrementX p.v
    else if p.dot = 257 then copyHorizontal p.v p.t
    else if p.scanline = 261 ∧ 280 ≤ p.dot ∧ p.dot ≤ 304 then copyVertical p.v p.t
    else p.v := by
  have ex : ∀ q : Ppu, q.scrollX = { q with
      v := if (q.scanline ≤ 239 ∨ q.scanline = 261) ∧ q.dot % 8 = 0 ∧ q.dot ≠ 0 ∧ ¬(257 ≤ q.dot ∧ q.dot ≤ 320)
        then incrementX q.v else q.v } := fun q => by
    unfold Ppu.scrollX
    simp only [Bool.and_eq_true, decide_eq_true_eq, Bool.not_eq_true', ← Bool.not_eq_true, Ppu.renderLine_iff,
      Ppu.dotIn_iff, and_assoc]
    split <;> rfl
  have ey : ∀ q : Ppu, q.scrollY = { q with
      v := if (q.scanline ≤ 239 ∨ q.scanline = 261) ∧ q.dot = 256 then incrementY q.v else q.v } := fun q => by
    unfold Ppu.scrollY
    simp only [Bool.and_eq_true, decide_eq_true_eq, Ppu.renderLine_iff]
    split <;> rfl
  have cx : ∀ q : Ppu, q.scrollCopyX = { q with
      v := if (q.scanline ≤ 239 ∨ q.scanline = 261) ∧ q.dot = 257 then copyHorizontal q.v q.t else q.v } := fun q => by
    unfold Ppu.scrollCopyX
    simp only [Bool.and_eq_true, decide_eq_true_eq, Ppu.renderLine_iff]
    split <;> rfl
  have cy : ∀ q : Ppu, q.scrollCopyY = { q with
      v := if q.scanline = 261 ∧ 280 ≤ q.dot ∧ q.dot ≤ 304 then copyVertical q.v q.t else q.v } := fun q => by
    unfold Ppu.scrollCopyY Ppu.preRender
    simp only [Bool.and_eq_true, decide_eq_true_eq, Ppu.dotIn_iff]
    split <;> rfl
  unfold Ppu.updateScroll
  rw [ex, ey, cx, cy]
  dsimp only
  split_ifs <;> first | rfl | (exfalso; omega)

/-- Settles O48: the fields of the address, counted through; and the place of each dot on its line. -/
theorem scrollCountersWrap : Obligations.ScrollCountersWrap := by
  refine ⟨fun v => ?_, fun v t k hk => copies_getLsbD v t hk, fun p q h ha hr => ?_⟩
  · rw [← joinScroll_fields v]
    generalize fineY v = fy, nametable v = nt, coarseY v = cy, coarseX v = cx
    rw [coarseX_joinScroll, coarseY_joinScroll, nametable_joinScroll, fineY_joinScroll, setNametable_joinScroll,
      setNametable_joinScroll]
    refine ⟨fun h => ?_, incrementX_iterate_row .., ?_, fun h => ?_, fun h1 h2 => ?_⟩
    · rw [incrementX_joinScroll, if_neg h]
      apply BitVec.eq_of_toNat_eq
      have hfy := fy.isLt
      have hnt := nt.isLt
      have hcy := cy.isLt
      rw [BitVec.toNat_add, joinScroll_toNat, joinScroll_toNat]
      bv_omega
    · rw [show 64 = 32 + 32 from rfl, Function.iterate_add_apply, incrementX_iterate_row, incrementX_iterate_row,
        BitVec.xor_assoc, BitVec.xor_self, BitVec.xor_zero]
    · rw [incrementY_joinScroll, if_pos (by bv_omega)]
      apply BitVec.eq_of_toNat_eq
      have hnt := nt.isLt
      have hcy := cy.isLt
      have hcx := cx.isLt
      rw [BitVec.toNat_add, joinScroll_toNat, joinScroll_toNat]
      bv_omega
    · rw [h1, h2]; exact incrementY_iterate_nametable ..
  · obtain ⟨r, hfront, -, hv, -⟩ := Ppu.step_fields h ha hr
    obtain ⟨a, x, n, at_, lo, hi, lo', sl, er⟩ := Ppu.front_only hfront
    rw [hv, Ppu.updateScroll_v, er]
    rfl

/-! ## The pixel (rules R363 to R365) -/

theorem PlanePair.pixel_toNat {n : Nat} (p : PlanePair n) (i : Nat) :
    (p.pixel i).toNat = 2 * (p.u.getLsbD (n - 1 - i)).toNat + (p.l.getLsbD (n - 1 - i)).toNat := by
  unfold PlanePair.pixel
  cases p.u.getLsbD (n - 1 - i) <;> cases p.l.getLsbD (n - 1 - i) <;> rfl

theorem paletteAddr_eq (sprite : Bool) (pal px : BitVec 2) :
    paletteAddr sprite pal px = 16 * sprite.toNat + 4 * pal.toNat + px.toNat := by
  unfold paletteAddr
  rw [toNat_append_eq, toNat_append_eq, BitVec.toNat_ofBool]
  omega

/-- The scan takes the first slot that has come down to 0 and whose pixel is not 0. -/
theorem firstSprite_eq (fx : Nat) (slots : List Slot) : firstSprite fx slots =
    (slots.find? fun sl => decide (sl.xcnt = 0 ∧ (sl.pat.pixel fx).toNat ≠ 0)).map
      fun sl => (sl.pat.pixel fx, sl.attr) := by
  induction slots with
  | nil => rfl
  | cons sl rest ih =>
    have hcond : (decide (sl.xcnt = 0) && decide (sl.pat.pixel fx ≠ 0)) =
        decide (sl.xcnt = 0 ∧ (sl.pat.pixel fx).toNat ≠ 0) := by
      rw [Bool.decide_and]
      congr 1
      exact decide_eq_decide.2 (not_congr ⟨fun e => by rw [e]; rfl, fun e => BitVec.eq_of_toNat_eq e⟩)
    rw [firstSprite, hcond, List.find?_cons]
    cases decide (sl.xcnt = 0 ∧ (sl.pat.pixel fx).toNat ≠ 0)
    · exact ih
    · rfl

/-- The palette address of a pixel, as a number. -/
theorem Ppu.pixelAddr_eq (p : Ppu) :
    let fx := p.fineX.toNat
    let bg := if p.mask.showBackground then 2 * (p.bgPat.u.getLsbD (15 - fx)).toNat + (p.bgPat.l.getLsbD (15 - fx)).toNat else 0
    let pal := 2 * (p.bgPal.u.getLsbD (7 - fx)).toNat + (p.bgPal.l.getLsbD (7 - fx)).toNat
    let px := fun sl : Slot => 2 * (sl.pat.u.getLsbD (7 - fx)).toNat + (sl.pat.l.getLsbD (7 - fx)).toNat
    p.pixelAddr =
      match if p.mask.showSprites then p.slots.find? fun sl => decide (sl.xcnt = 0 ∧ px sl ≠ 0) else none with
      | some sl => if bg = 0 ∨ sl.attr.getLsbD 5 = false then 16 + 4 * (sl.attr.toNat % 4) + px sl else 4 * pal + bg
      | none => 4 * pal + bg := by
  intro fx bg pal px
  have hpx : ∀ sl : Slot, (sl.pat.pixel fx).toNat = px sl := fun sl => sl.pat.pixel_toNat fx
  have hpal : (p.bgPal.pixel fx).toNat = pal := p.bgPal.pixel_toNat fx
  set bgp : BitVec 2 := if p.mask.showBackground then p.bgPat.pixel fx else 0 with hbgp
  have hbg : bgp.toNat = bg := by
    rw [hbgp]
    show BitVec.toNat (if _ then _ else _) = if _ then _ else _
    split
    · exact p.bgPat.pixel_toNat fx
    · rfl
  have hzero : bgp = 0 ↔ bg = 0 := by
    rw [← hbg]
    exact ⟨fun e => by rw [e]; rfl, fun e => BitVec.eq_of_toNat_eq e⟩
  have hback : paletteAddr false (p.bgPal.pixel fx) bgp = 4 * pal + bg := by
    rw [paletteAddr_eq, hpal, hbg, Bool.toNat_false, Nat.mul_zero, Nat.zero_add]
  have hscan : p.spritePixel =
      (if p.mask.showSprites then p.slots.find? fun sl => decide (sl.xcnt = 0 ∧ px sl ≠ 0) else none).map
        fun sl => (sl.pat.pixel fx, sl.attr) := by
    unfold Ppu.spritePixel
    rw [firstSprite_eq]
    simp only [show p.fineX.toNat = fx from rfl, hpx]
    cases p.mask.showSprites <;> rfl
  unfold Ppu.pixelAddr
  rw [hscan]
  cases (if p.mask.showSprites then p.slots.find? fun sl => decide (sl.xcnt = 0 ∧ px sl ≠ 0) else none) with
  | none => exact hback
  | some sl =>
    have hcond : (decide (bgp = 0) || !sl.attr.getLsbD 5) = true ↔ bg = 0 ∨ sl.attr.getLsbD 5 = false := by
      rw [Bool.or_eq_true, decide_eq_true_eq, hzero, Bool.not_eq_true']
    refine if_congr hcond ?_ hback
    rw [paletteAddr_eq, hpx, BitVec.extractLsb'_toNat, Nat.shiftRight_zero]
    rfl

/-- The reload writes below the bits that the pixel is taken from. -/
theorem PlanePair.reloadLow_getLsbD (p : PlanePair 16) (a b : Byte) {k : Nat} (h8 : 8 ≤ k) (h16 : k < 16) :
    (p.reloadLow a b).u.getLsbD k = p.u.getLsbD k ∧ (p.reloadLow a b).l.getLsbD k = p.l.getLsbD k := by
  have high : ∀ (x : BitVec 16) (c : Byte), ((x >>> 8) <<< 8 ||| c.setWidth 16).getLsbD k = x.getLsbD k := by
    intro x c
    rw [BitVec.getLsbD_or, BitVec.getLsbD_shiftLeft, BitVec.getLsbD_ushiftRight, BitVec.getLsbD_setWidth,
      BitVec.getLsbD_of_ge c k h8, show 8 + (k - 8) = k by omega, decide_eq_true h16,
      decide_eq_false (show ¬ k < 8 by omega)]
    simp
  exact ⟨high _ _, high _ _⟩

theorem Ppu.reload_pixelAddr (p : Ppu) : p.reload.pixelAddr = p.pixelAddr := by
  have hfx := p.fineX.isLt
  have hbits : p.reload.bgPat.u.getLsbD (15 - p.fineX.toNat) = p.bgPat.u.getLsbD (15 - p.fineX.toNat) ∧
      p.reload.bgPat.l.getLsbD (15 - p.fineX.toNat) = p.bgPat.l.getLsbD (15 - p.fineX.toNat) := by
    unfold Ppu.reload
    split
    · exact PlanePair.reloadLow_getLsbD _ _ _ (by omega) (by omega)
    · exact ⟨rfl, rfl⟩
  obtain ⟨b, l, e⟩ := p.reload_only
  rw [e] at hbits ⊢
  rw [Ppu.pixelAddr_eq, Ppu.pixelAddr_eq p]
  dsimp only at hbits ⊢
  rw [hbits.1, hbits.2]

/-- Settles O52: the pixel is taken before the fetches and the shifts of the dot. -/
theorem pixelIsComposed : Obligations.PixelIsComposed := by
  intro p q h ha hwf fx bg pal px index
  by_cases hr : p.renderingEnabled = true
  · obtain ⟨r, hfront, -, -, -, -, -, -, hframe⟩ := Ppu.step_fields h ha hr
    obtain ⟨a, x, n, at_, lo, hi, lo', sl, er⟩ := Ppu.front_only hfront
    obtain ⟨b, l, e⟩ := p.endStrobes.reload_only
    have hemit : q.frameBuffer = p.endStrobes.reload.emitPixel.frameBuffer := by rw [hframe, er]
    have hpix : p.endStrobes.reload.pixelAddr = index := by
      rw [Ppu.reload_pixelAddr]
      exact p.pixelAddr_eq
    have hcond : (p.endStrobes.reload.visibleLine && p.endStrobes.reload.dotIn 1 256) = true ↔
        p.scanline ≤ 239 ∧ 1 ≤ p.dot ∧ p.dot ≤ 256 := by
      rw [Bool.and_eq_true, Ppu.dotIn_iff, e]
      exact and_congr decide_eq_true_iff Iff.rfl
    unfold Ppu.emitPixel at hemit
    by_cases hdot : p.scanline ≤ 239 ∧ 1 ≤ p.dot ∧ p.dot ≤ 256
    · rw [if_pos (hcond.2 hdot), hpix, e] at hemit
      have hplace : p.scanline * 256 + (p.dot - 1) = 256 * p.scanline + p.dot - 1 := by omega
      have hemit : q.frameBuffer = p.frameBuffer.write (256 * p.scanline + p.dot - 1) (p.palette.read index) := by
        rw [hemit, ← hplace]; rfl
      rw [if_pos ⟨hr, hdot⟩, hemit]
      exact ⟨Memory.read_write_same hwf _ _, fun k hk => Memory.read_write_other _ hk _⟩
    · rw [if_neg (fun hc => hdot (hcond.1 hc)), e] at hemit
      rw [if_neg (fun hc => hdot hc.2)]
      exact hemit
  · rw [if_neg (fun hc => hr hc.1)]
    have hoff : p.cpuAccess.renderingEnabled = false := by
      rw [Ppu.cpuAccess_idle ha]
      exact Bool.not_eq_true _ ▸ hr
    rw [Ppu.step_off hoff] at h
    cases h
    obtain ⟨v, f, o, d, l, x, e⟩ := p.cpuAccess.edges_only
    rw [e, Ppu.cpuAccess_idle ha]
    rfl

/-! ## The sprites evaluated (rules R380 to R384) -/

theorem Memory.wf_writeBytes (vs : List Byte) {m : Memory} (h : m.wf = true) (k : Nat) : (m.writeBytes k vs).wf = true := by
  induction vs generalizing m k with
  | nil => exact h
  | cons v vs ih => exact ih (Memory.wf_write h k v) (k + 1)

theorem Memory.read_writeBytes_below (vs : List Byte) (m : Memory) {k j : Nat} (hj : j < k) :
    (m.writeBytes k vs).read j = m.read j := by
  induction vs generalizing m k with
  | nil => rfl
  | cons v vs ih => exact (ih (m.write k v) (by omega)).trans (Memory.read_write_other m (by omega) v)

theorem Memory.read_writeBytes_above (vs : List Byte) (m : Memory) {k j : Nat} (hj : k + vs.length ≤ j) :
    (m.writeBytes k vs).read j = m.read j := by
  induction vs generalizing m k with
  | nil => rfl
  | cons v vs ih =>
    rw [List.length_cons] at hj
    exact (ih (m.write k v) (by omega)).trans (Memory.read_write_other m (by omega) v)

theorem Memory.read_writeBytes (vs : List Byte) {m : Memory} (h : m.wf = true) (k b : Nat) (hb : b < vs.length) :
    (m.writeBytes k vs).read (k + b) = vs[b] := by
  induction vs generalizing m k b with
  | nil => cases hb
  | cons v vs ih =>
    cases b with
    | zero => exact (Memory.read_writeBytes_below vs (m.write k v) (by omega)).trans (Memory.read_write_same h k v)
    | succ b =>
      have hrest := ih (Memory.wf_write h k v) (k + 1) b (by simpa using hb)
      rw [Nat.add_right_comm, Nat.add_assoc] at hrest
      exact hrest

/-- Sprite `k` covers the next line. -/
def Ppu.covers (p : Ppu) (k : Nat) : Bool :=
  spriteInRange p.scanline (if p.ctrl.spriteHeight16 then 16 else 8) (p.oam.read (4 * k))

/-- What a scan of the sprites `ks` leaves, from a count of `p.secCount`: the first that fit copied, in order, the rest
only flagged. -/
structure Ppu.Scanned (p : Ppu) (ks : List Nat) (q : Ppu) : Prop where
  count : q.secCount = min 8 (p.secCount + (ks.filter p.covers).length)
  overflow : q.spriteOverflow = (p.spriteOverflow || decide (8 < p.secCount + (ks.filter p.covers).length))
  copied : ∀ j b, p.secCount + j < q.secCount → b < 4 →
    q.secOam.read (4 * (p.secCount + j) + b) = p.oam.read (4 * (ks.filter p.covers).getD j 0 + b)
  below : ∀ k, k < 4 * p.secCount → q.secOam.read k = p.secOam.read k
  above : ∀ k, 4 * q.secCount ≤ k → q.secOam.read k = p.secOam.read k

theorem Ppu.scanSprite_skip {p : Ppu} {k : Nat} (h : p.covers k = false) : p.scanSprite k = p := by
  unfold Ppu.covers at h
  unfold Ppu.scanSprite
  rw [h, if_neg Bool.false_ne_true]

theorem Ppu.scanSprite_copy {p : Ppu} {k : Nat} (h : p.covers k = true) (hc : p.secCount < 8) :
    p.scanSprite k = p.copySprite k := by
  unfold Ppu.covers at h
  unfold Ppu.scanSprite
  rw [h, if_pos rfl, if_pos hc]

theorem Ppu.scanSprite_full {p : Ppu} {k : Nat} (h : p.covers k = true) (hc : ¬ p.secCount < 8) :
    p.scanSprite k = { p with spriteOverflow := true } := by
  unfold Ppu.covers at h
  unfold Ppu.scanSprite
  rw [h, if_pos rfl, if_neg hc]

theorem Ppu.copySprite_read {p : Ppu} (hwf : p.secOam.wf = true) (k b : Nat) (hb : b < 4) :
    (p.copySprite k).secOam.read (4 * p.secCount + b) = p.oam.read (4 * k + b) := by
  refine (Memory.read_writeBytes [p.oam.read (4 * k), p.oam.read (4 * k + 1), p.oam.read (4 * k + 2), p.oam.read (4 * k + 3)]
    hwf _ b hb).trans ?_
  interval_cases b <;> rfl

theorem Ppu.scanSprites_scanned (ks : List Nat) {p : Ppu} (hwf : p.secOam.wf = true) (hc : p.secCount ≤ 8) :
    p.Scanned ks (ks.foldl Ppu.scanSprite p) := by
  induction ks generalizing p with
  | nil =>
    refine ⟨?_, ?_, fun j b hj => ?_, fun _ _ => rfl, fun _ _ => rfl⟩
    · show p.secCount = min 8 (p.secCount + 0)
      omega
    · show p.spriteOverflow = (p.spriteOverflow || decide (8 < p.secCount + 0))
      rw [decide_eq_false (by omega), Bool.or_false]
    · exact absurd hj (by show ¬ p.secCount + j < p.secCount; omega)
  | cons k ks ih =>
    rw [List.foldl_cons]
    cases hk : p.covers k with
    | false =>
      rw [Ppu.scanSprite_skip hk]
      obtain ⟨h1, h2, h3, h4, h5⟩ := ih hwf hc
      rw [← List.filter_cons_of_neg (a := k) (l := ks) (by rw [hk]; exact Bool.false_ne_true)] at h1 h2 h3
      exact ⟨h1, h2, h3, h4, h5⟩
    | true =>
      have hhits : (k :: ks).filter p.covers = k :: ks.filter p.covers := List.filter_cons_of_pos hk
      by_cases hlt : p.secCount < 8
      · rw [Ppu.scanSprite_copy hk hlt]
        obtain ⟨h1, h2, h3, h4, h5⟩ := ih (p := p.copySprite k) (Memory.wf_writeBytes _ hwf _) hlt
        have hcovers : (p.copySprite k).covers = p.covers := rfl
        have hcount : (p.copySprite k).secCount = p.secCount + 1 := rfl
        have hoam : (p.copySprite k).oam = p.oam := rfl
        rw [hcovers, hcount] at h1 h2 h3
        rw [hcount] at h4
        rw [hoam] at h3
        refine ⟨?_, ?_, fun j b hj hb => ?_, fun i hi => ?_, fun i hi => ?_⟩
        · rw [hhits, List.length_cons, h1]; omega
        · rw [hhits, List.length_cons, h2, Nat.add_assoc, Nat.add_comm 1]
          rfl
        · rw [hhits]
          cases j with
          | zero => exact (h4 _ (by omega)).trans (Ppu.copySprite_read hwf k b hb)
          | succ j =>
            rw [List.getD_cons_succ, ← h3 j b (by omega) hb]
            congr 1; omega
        · exact (h4 i (by omega)).trans (Memory.read_writeBytes_below _ _ hi)
        · refine (h5 i hi).trans (Memory.read_writeBytes_above _ _ ?_)
          show 4 * p.secCount + 4 ≤ i
          omega
      · rw [Ppu.scanSprite_full hk hlt]
        obtain ⟨h1, h2, h3, h4, h5⟩ := ih (p := { p with spriteOverflow := true }) hwf hc
        have hcovers : Ppu.covers { p with spriteOverflow := true } = p.covers := rfl
        dsimp only at h1 h2 h3 h4 h5
        rw [hcovers] at h1 h2
        refine ⟨?_, ?_, fun j b hj hb => ?_, h4, h5⟩
        · rw [hhits, List.length_cons, h1]; omega
        · rw [hhits, List.length_cons, h2, Bool.true_or, decide_eq_true (by omega), Bool.or_true]
        · omega

theorem Ppu.covers_eq (p : Ppu) (k : Nat) : p.covers k =
    decide ((p.oam.read (4 * k)).toNat ≤ p.scanline + 1 ∧
      p.scanline + 1 < (p.oam.read (4 * k)).toNat + if p.ctrl.spriteHeight16 then 16 else 8) := by
  unfold Ppu.covers spriteInRange
  rw [← Bool.decide_and]
  exact decide_eq_decide.2 (by omega)

/-- Settles O49: the evaluation of the dot, and what the sub-steps after it leave alone. -/
theorem spritesAreEvaluated : Obligations.SpritesAreEvaluated := by
  intro p q h ha hr hwf clears scans height inRange
  obtain ⟨r, hfront, hq, -⟩ := Ppu.step_fields h ha hr
  obtain ⟨a, x, n, at_, lo, hi, lo', sl, er⟩ := Ppu.front_only hfront
  obtain ⟨v, e1⟩ := r.updateScroll_only
  set u := r.updateScroll with hu
  have hscan : u.scanline = p.scanline ∧ u.dot = p.dot ∧ u.oam = p.oam ∧ u.ctrl = p.ctrl ∧ u.secOam = p.secOam ∧
      u.secCount = p.secCount ∧ u.spriteOverflow = p.spriteOverflow := by
    rw [e1, er]; exact ⟨rfl, rfl, rfl, rfl, rfl, rfl, rfl⟩
  obtain ⟨hline, hdot, hoam, hctrl, hsec, hcount, hover⟩ := hscan
  -- the sub-steps after the evaluation leave secondary OAM and its count alone
  obtain ⟨b, c, e3⟩ := u.evaluateSprites.shiftBackground_only
  obtain ⟨l, e4⟩ := u.evaluateSprites.shiftBackground.shiftSprites_only
  obtain ⟨v', f, o, d, l', x', e5⟩ := u.evaluateSprites.shiftBackground.shiftSprites.edges_only
  have hend : q.secCount = u.evaluateSprites.secCount ∧ q.secOam = u.evaluateSprites.secOam := by
    rw [hq, e5, e4, e3]; exact ⟨rfl, rfl⟩
  have hclears : (u.renderLine && decide (u.dot = 1)) = true ↔ clears := by
    rw [Bool.and_eq_true, Ppu.renderLine_iff, decide_eq_true_eq, hline, hdot]
    exact and_comm
  have hscans : (u.visibleLine && decide (u.dot = 65)) = true ↔ scans := by
    unfold Ppu.visibleLine
    rw [Bool.and_eq_true, decide_eq_true_eq, decide_eq_true_eq, hline, hdot]
    exact and_comm
  refine ⟨fun hc => ?_, fun hs hzero => ?_, fun hnc hns => ?_⟩
  · have heval : u.evaluateSprites =
        { u with secOam := Memory.writeBytes [] 0 (List.replicate 32 0xFF), secCount := 0 } := by
      unfold Ppu.evaluateSprites; rw [if_pos (hclears.2 hc)]
    rw [hend.1, hend.2, heval]
    exact ⟨rfl, show ∀ k, k < 32 → Memory.read (Memory.writeBytes [] 0 (List.replicate 32 0xFF)) k = 0xFF by decide⟩
  · have heval : u.evaluateSprites = (List.range 64).foldl Ppu.scanSprite u := by
      unfold Ppu.evaluateSprites
      rw [if_neg (fun hc => ?_), if_pos (hscans.2 hs)]
      have := (hclears.1 hc).1
      have := hs.1
      omega
    have hover' : q.spriteOverflow = u.evaluateSprites.spriteOverflow := by
      obtain ⟨-, -, k3⟩ := u.evaluateSprites.shiftBackground.shiftSprites.vblankEdges.advanceCounters_flags
      obtain ⟨m, n', o', e2, -⟩ := u.evaluateSprites_only
      have hdot' : u.evaluateSprites.shiftBackground.shiftSprites.dot = 65 := by
        rw [e4, e3, e2]; exact hdot.trans hs.1
      rw [hq, k3]
      unfold Ppu.vblankEdges
      rw [if_neg (by omega), if_neg (by omega), e4, e3]
    obtain ⟨h1, h2, h3, -, h5⟩ := Ppu.scanSprites_scanned (List.range 64) (p := u) (hsec ▸ hwf) (by omega)
    have hhits : (List.range 64).filter u.covers = inRange := by
      refine List.filter_congr fun k _ => ?_
      rw [Ppu.covers_eq, hoam, hline, hctrl]
    rw [hhits, hcount, hzero, Nat.zero_add] at h1 h2
    rw [hhits, hcount, hzero] at h3
    rw [hend.1, hend.2, hover', heval]
    refine ⟨h1, by rw [h2, hover], fun j b hj hb => ?_, fun k hk => ?_⟩
    · have hcopied := h3 j b (by rw [Nat.zero_add]; exact hj) hb
      rw [Nat.zero_add, hoam] at hcopied
      exact hcopied
    · rw [h5 k hk, hsec]
  · have heval : u.evaluateSprites = u := by
      unfold Ppu.evaluateSprites
      rw [if_neg (fun hc => hnc (hclears.1 hc)), if_neg (fun hs => hns (hscans.1 hs))]
    rw [hend.1, hend.2, heval]
    exact ⟨hcount, hsec⟩

end Sys2Proof.Machine
end

section
/-! PROOF. The rendering of a dot, what it fetches: the background's tiles and the sprites' slots (rules R362, R366 to
R368, R385, R386). -/

namespace Sys2Proof.Machine

/-! ## The background's fetch (rule R366) -/

/-- The registers that the background's fetch writes. -/
def Ppu.bgFetch (p : Ppu) : BitVec 14 × Bool × Byte × Byte × Byte × Byte :=
  (p.vramAddr, p.vramRd, p.ntByte, p.atByte, p.ptLo, p.ptHi)

/-- The fetch neither reads nor writes what the reload and the pixel before it write. -/
theorem Ppu.fetchBackground_after (p : Ppu) (b : PlanePair 16) (l : BitVec 2) (f : Memory) :
    Ppu.fetchBackground { p with bgPat := b, palLatch := l, frameBuffer := f } =
      { p.fetchBackground with bgPat := b, palLatch := l, frameBuffer := f } := by
  unfold Ppu.fetchBackground
  split
  · next h =>
    rw [if_pos (show (p.renderLine && (p.dotIn 1 256 || p.dotIn 321 336)) = true from h)]
    have hm : p.dot % 8 < 8 := Nat.mod_lt _ (by decide)
    dsimp only
    generalize p.dot % 8 = m at hm
    interval_cases m <;> rfl
  · next h => rw [if_neg (show ¬(p.renderLine && (p.dotIn 1 256 || p.dotIn 321 336)) = true from h)]

/-- A dot of a background fetch: what the fetch wrote, and what the dot leaves alone. -/
structure Ppu.BgDot (p q : Ppu) : Prop where
  fetch : q.bgFetch = p.endStrobes.fetchBackground.bgFetch
  vramWr : q.vramWr = false
  access : q.access = false
  ctrl : q.ctrl = p.ctrl
  mask : q.mask = p.mask
  scanline : q.scanline = p.scanline
  dot : q.dot = p.dot + 1
  v : p.dot % 8 ≠ 0 → q.v = p.v

theorem Ppu.step_bgDot {p : Ppu} (ha : p.access = false) (hr : p.renderingEnabled = true)
    (hdot : 1 ≤ p.dot ∧ p.dot ≤ 256 ∨ 321 ≤ p.dot ∧ p.dot ≤ 336) : ∃ q, p.step = .ok q ∧ p.BgDot q := by
  obtain ⟨b, l, e1⟩ := p.endStrobes.reload_only
  obtain ⟨f, e2⟩ := p.endStrobes.reload.emitPixel_only
  obtain ⟨a, x, n, at_, lo, hi, e3⟩ := p.endStrobes.fetchBackground_only
  have hfetch : p.endStrobes.reload.emitPixel.fetchBackground =
      { p.endStrobes.fetchBackground with bgPat := b, palLatch := l, frameBuffer := f } := by
    rw [e2, e1]; exact p.endStrobes.fetchBackground_after b l f
  set r := p.endStrobes.reload.emitPixel.fetchBackground with hrdef
  have er : r = { p.endStrobes with
      vramAddr := a, vramRd := x, ntByte := n, atByte := at_, ptLo := lo, ptHi := hi, bgPat := b, palLatch := l,
      frameBuffer := f } := by rw [hfetch, e3]
  have hd : r.dot = p.dot := by rw [er]; rfl
  have hsprite : r.fetchSprite = .ok r := by
    refine Ppu.fetchSprite_off ?_
    rw [← Bool.not_eq_true, Ppu.dotIn_iff, hd]; omega
  have hcopy : r.dotIn 280 304 = false := by rw [← Bool.not_eq_true, Ppu.dotIn_iff, hd]; omega
  obtain ⟨m, k, o, w, fc, od, et, -⟩ := r.tail_only
  refine ⟨_, Ppu.step_rendering_ok ha hr hsprite, ?_⟩
  rw [et, Ppu.advanceCounters_within (by omega)]
  constructor
  case fetch => rw [e3, er]; rfl
  case v =>
    intro h8
    show r.updateScroll.v = p.v
    rw [Ppu.updateScroll_off (.inl (by omega)) (by omega) hcopy, er]
    rfl
  case dot => show r.dot + 1 = _; rw [hd]
  case access => rw [er]; exact ha
  all_goals (rw [er]; rfl)

/-- `k` dots into a tile that began at `p0`. -/
structure Ppu.InTile (p0 : Ppu) (k : Nat) (p : Ppu) : Prop where
  access : p.access = false
  ctrl : p.ctrl = p0.ctrl
  mask : p.mask = p0.mask
  scanline : p.scanline = p0.scanline
  dot : p.dot = p0.dot + k
  v : p.v = p0.v

/-- What the fetch of the `k`th dot of a tile writes. -/
def Ppu.tileFetch (p0 p : Ppu) : Nat → BitVec 14 × Bool × Byte × Byte × Byte × Byte
  | 0 => (nametableAddr p0.v, true, p.ntByte, p.atByte, p.ptLo, p.ptHi)
  | 1 => (p.vramAddr, false, p.vramData, p.atByte, p.ptLo, p.ptHi)
  | 2 => (attributeAddr p0.v, true, p.ntByte, p.atByte, p.ptLo, p.ptHi)
  | 3 => (p.vramAddr, false, p.ntByte, p.vramData >>> attrShift p0.v, p.ptLo, p.ptHi)
  | 4 => (patternAddr p0.ctrl.bgPtBase p.ntByte (fineY p0.v), true, p.ntByte, p.atByte, p.ptLo, p.ptHi)
  | 5 => (p.vramAddr, false, p.ntByte, p.atByte, p.vramData, p.ptHi)
  | 6 => (p.vramAddr ||| 0x0008, true, p.ntByte, p.atByte, p.ptLo, p.ptHi)
  | _ => (p.vramAddr, false, p.ntByte, p.atByte, p.ptLo, p.vramData)

section Tile

variable {p0 : Ppu} {s : State} {k : Nat} (h : p0.InTile k s.ppu) (hr : p0.renderingEnabled = true)
  (hline : p0.renderLine = true) (h8 : p0.dot % 8 = 1) (hplace : p0.dot ≤ 249 ∨ p0.dot = 321 ∨ p0.dot = 329)

include h hr hline h8 hplace in
theorem Ppu.InTile.step (hk : k < 8) : ∃ q, s.ppu.step = .ok q ∧ q.bgFetch = p0.tileFetch s.ppu k ∧ q.vramWr = false ∧
    (k < 7 → p0.InTile (k + 1) q) := by
  have hd := h.dot
  have hdot : 1 ≤ s.ppu.dot ∧ s.ppu.dot ≤ 256 ∨ 321 ≤ s.ppu.dot ∧ s.ppu.dot ≤ 336 := by omega
  have hr' : s.ppu.renderingEnabled = true := by unfold Ppu.renderingEnabled; rw [h.mask]; exact hr
  have hon : (s.ppu.endStrobes.renderLine && (s.ppu.endStrobes.dotIn 1 256 || s.ppu.endStrobes.dotIn 321 336)) = true := by
    rw [Bool.and_eq_true, Bool.or_eq_true, Ppu.dotIn_iff, Ppu.dotIn_iff]
    refine ⟨?_, hdot⟩
    rw [Ppu.renderLine_iff] at hline ⊢
    exact h.scanline ▸ hline
  obtain ⟨q, hq, hbg⟩ := Ppu.step_bgDot h.access hr' hdot
  refine ⟨q, hq, ?_, hbg.vramWr, fun hk7 => ⟨hbg.access, hbg.ctrl.trans h.ctrl, hbg.mask.trans h.mask,
    hbg.scanline.trans h.scanline, ?_, (hbg.v ?_).trans h.v⟩⟩
  · have hm : s.ppu.endStrobes.dot % 8 = (k + 1) % 8 := by
      show s.ppu.dot % 8 = _
      omega
    rw [hbg.fetch, Ppu.fetchBackground, if_pos hon, hm]
    have hv : s.ppu.endStrobes.v = p0.v := h.v
    have hc : s.ppu.endStrobes.ctrl = p0.ctrl := h.ctrl
    rw [hv, hc]
    interval_cases k <;> rfl
  · rw [hbg.dot, hd, Nat.add_assoc]
  · omega

include h hr hline h8 hplace in
/-- A dot of a tile that asks for a byte. -/
theorem State.tile_reads {a : BitVec 14} {d : Byte} (hk : k < 7)
    (hf : p0.tileFetch s.ppu k = (a, true, s.ppu.ntByte, s.ppu.atByte, s.ppu.ptLo, s.ppu.ptHi))
    (hd : s.ppuBusRead a = .ok d) :
    ∃ t, s.ppuStep = .ok t ∧ p0.InTile (k + 1) t.ppu ∧ t.ppu.vramData = d ∧
      t.ppu.bgFetch = (a, true, s.ppu.ntByte, s.ppu.atByte, s.ppu.ptLo, s.ppu.ptHi) ∧
      ∀ a, t.ppuBusRead a = s.ppuBusRead a := by
  obtain ⟨q, hq, hfetch, hwr, hnext⟩ := h.step hr hline h8 hplace (by omega)
  rw [hf] at hfetch
  have haddr : q.vramAddr = a := congrArg Prod.fst hfetch
  have hrd : q.vramRd = true := congrArg (fun x => x.2.1) hfetch
  exact ⟨{ s with ppu := { q with vramData := d } }, State.ppuStep_reads hq hrd hwr (by rw [haddr]; exact hd),
    { hnext hk with }, rfl, hfetch, fun _ => rfl⟩

include h hr hline h8 hplace in
/-- A dot of a tile that takes the byte served in the one before. -/
theorem State.tile_takes (hk : k < 8) (hf : (p0.tileFetch s.ppu k).2.1 = false) :
    ∃ t, s.ppuStep = .ok t ∧ (k < 7 → p0.InTile (k + 1) t.ppu) ∧ t.ppu.bgFetch = p0.tileFetch s.ppu k ∧
      ∀ a, t.ppuBusRead a = s.ppuBusRead a := by
  obtain ⟨q, hq, hfetch, hwr, hnext⟩ := h.step hr hline h8 hplace hk
  have hrd : q.vramRd = false := (congrArg (fun x => x.2.1) hfetch).trans hf
  exact ⟨_, State.ppuStep_quiet hq hrd hwr, hnext, hfetch, fun _ => rfl⟩

include hr hline h8 hplace in
/-- The eight dots of a tile. -/
theorem State.tile_dots {nt attr lo hi : Byte} (h : p0.InTile 0 s.ppu)
    (hnt : s.ppuBusRead (nametableAddr p0.v) = .ok nt) (hattr : s.ppuBusRead (attributeAddr p0.v) = .ok attr)
    (hlo : s.ppuBusRead (patternAddr p0.ctrl.bgPtBase nt (fineY p0.v)) = .ok lo)
    (hhi : s.ppuBusRead (patternAddr p0.ctrl.bgPtBase nt (fineY p0.v) ||| 0x0008) = .ok hi) :
    ∃ t, State.dots 8 s = .ok t ∧ t.ppu.ntByte = nt ∧ t.ppu.ptLo = lo ∧ t.ppu.ptHi = hi ∧
      t.ppu.atByte = attr >>> attrShift p0.v := by
  obtain ⟨t1, r1, i1, d1, f1, b1⟩ := State.tile_reads h hr hline h8 hplace (by decide) rfl hnt
  obtain ⟨t2, r2, i2, f2, b2⟩ := State.tile_takes i1 hr hline h8 hplace (by decide) rfl
  obtain ⟨t3, r3, i3, d3, f3, b3⟩ := State.tile_reads (i2 (by decide)) hr hline h8 hplace (by decide) rfl
    (by rw [b2, b1]; exact hattr)
  obtain ⟨t4, r4, i4, f4, b4⟩ := State.tile_takes i3 hr hline h8 hplace (by decide) rfl
  simp only [Ppu.bgFetch, Ppu.tileFetch, Prod.mk.injEq] at f1 f2 f3 f4
  have hnt4 : t4.ppu.ntByte = nt := by simp only [f4, f3, f2, d1]
  obtain ⟨t5, r5, i5, d5, f5, b5⟩ := State.tile_reads (i4 (by decide)) hr hline h8 hplace (by decide) rfl
    (by rw [hnt4, b4, b3, b2, b1]; exact hlo)
  obtain ⟨t6, r6, i6, f6, b6⟩ := State.tile_takes i5 hr hline h8 hplace (by decide) rfl
  simp only [Ppu.bgFetch, Ppu.tileFetch, Prod.mk.injEq] at f5 f6
  have haddr6 : t6.ppu.vramAddr = patternAddr p0.ctrl.bgPtBase nt (fineY p0.v) := by simp only [f6, f5, hnt4]
  obtain ⟨t7, r7, i7, d7, f7, b7⟩ := State.tile_reads (i6 (by decide)) hr hline h8 hplace (by decide) rfl
    (by rw [haddr6, b6, b5, b4, b3, b2, b1]; exact hhi)
  obtain ⟨t8, r8, -, f8, -⟩ := State.tile_takes i7 hr hline h8 hplace (by decide) rfl
  simp only [Ppu.bgFetch, Ppu.tileFetch, Prod.mk.injEq] at f7 f8
  refine ⟨t8, ?_, ?_, ?_, ?_, ?_⟩
  · rw [State.dots_succ r1, State.dots_succ r2, State.dots_succ r3, State.dots_succ r4, State.dots_succ r5,
      State.dots_succ r6, State.dots_succ r7, State.dots_succ r8]
    rfl
  · simp only [f8, f7, f6, f5, hnt4]
  · simp only [f8, f7, f6, d5]
  · simp only [f8, d7]
  · simp only [f8, f7, f6, f5, f4, d3]

end Tile

/-! ## The addresses fetched, as numbers -/

theorem nametableAddr_eq (v : BitVec 15) : nametableAddr v = BitVec.ofNat 14 (0x2000 + v.toNat % 4096) := by
  have hv := joinScroll_fields v
  have hcx := (coarseX v).isLt
  have hcy := (coarseY v).isLt
  have hnt := (nametable v).isLt
  apply BitVec.eq_of_toNat_eq
  rw [← hv, joinScroll_toNat, hv]
  simp only [nametableAddr, toNat_append_eq, BitVec.toNat_ofNat]
  omega

theorem attributeAddr_eq (v : BitVec 15) : attributeAddr v = BitVec.ofNat 14
    (0x23C0 + 1024 * (nametable v).toNat + 8 * ((coarseY v).toNat / 4) + (coarseX v).toNat / 4) := by
  have hcx := (coarseX v).isLt
  have hcy := (coarseY v).isLt
  have hnt := (nametable v).isLt
  apply BitVec.eq_of_toNat_eq
  simp only [attributeAddr, toNat_append_eq, BitVec.extractLsb'_toNat, Nat.shiftRight_eq_div_pow, BitVec.toNat_ofNat]
  omega

theorem patternAddr_toNat (base : Bool) (tile : Byte) (row : BitVec 3) :
    (patternAddr base tile row).toNat = 4096 * base.toNat + 16 * tile.toNat + row.toNat := by
  simp only [patternAddr, toNat_append_eq, BitVec.toNat_ofBool, BitVec.toNat_ofNat]
  omega

theorem patternAddr_eq (base : Bool) (tile : Byte) (row : BitVec 3) :
    patternAddr base tile row = BitVec.ofNat 14 (4096 * base.toNat + 16 * tile.toNat + row.toNat) := by
  rw [← patternAddr_toNat, BitVec.ofNat_toNat, BitVec.setWidth_eq]

/-- The high plane lies eight bytes above the low one. -/
theorem patternAddr_high (base : Bool) (tile : Byte) (row : BitVec 3) : patternAddr base tile row ||| 0x0008 =
    BitVec.ofNat 14 (4096 * base.toNat + 16 * tile.toNat + row.toNat + 8) := by
  have hbase : base.toNat < 2 := base.toNat_lt
  have htile := tile.isLt
  have hrow := row.isLt
  set q := 256 * base.toNat + tile.toNat with hq
  have hval : (patternAddr base tile row).toNat = (2 * q) <<< 3 ||| row.toNat := by
    rw [patternAddr_toNat, ← Nat.shiftLeft_add_eq_or_of_lt hrow, Nat.shiftLeft_eq]
    omega
  have hodd : 2 * q ||| 1 = 2 * q + 1 := by
    rw [Nat.mul_comm, ← Nat.pow_one 2, ← Nat.shiftLeft_eq, Nat.shiftLeft_add_eq_or_of_lt (by decide)]
  apply BitVec.eq_of_toNat_eq
  rw [BitVec.toNat_or, hval, show (0x0008 : BitVec 14).toNat = 1 <<< 3 from rfl, Nat.or_right_comm,
    ← Nat.shiftLeft_or_distrib, hodd, ← Nat.shiftLeft_add_eq_or_of_lt hrow, Nat.shiftLeft_eq, BitVec.toNat_ofNat]
  omega

/-! ## The shift of the planes (rules R362, R385) -/

theorem reloadLow_toNat (x : BitVec 16) (b : Byte) :
    ((x >>> 8) <<< 8 ||| b.setWidth 16).toNat = x.toNat / 256 * 256 + b.toNat := by
  have hx := x.isLt
  have hb := b.isLt
  have hshift : (x.toNat >>> 8) <<< 8 % 2 ^ 16 = (x.toNat / 256) <<< 8 := by
    rw [Nat.shiftRight_eq_div_pow, Nat.mod_eq_of_lt]
    rw [Nat.shiftLeft_eq]
    omega
  rw [BitVec.toNat_or, BitVec.toNat_shiftLeft, BitVec.toNat_ushiftRight, BitVec.toNat_setWidth, hshift,
    Nat.mod_eq_of_lt (by omega), ← Nat.shiftLeft_add_eq_or_of_lt hb, Nat.shiftLeft_eq]

theorem shiftIn_toNat {m : Nat} (x : BitVec (m + 1)) (b : Bool) :
    (x <<< 1 ||| (BitVec.ofBool b).setWidth (m + 1)).toNat = (2 * x.toNat + b.toNat) % 2 ^ (m + 1) := by
  have hpow : 2 ^ (m + 1) = 2 * 2 ^ m := by rw [Nat.pow_succ, Nat.mul_comm]
  have hb : b.toNat < 2 := b.toNat_lt
  have hpos : 0 < 2 ^ m := Nat.two_pow_pos m
  have hmod : 2 * x.toNat % (2 * 2 ^ m) = (x.toNat % 2 ^ m) <<< 1 := by
    rw [Nat.mul_mod_mul_left, Nat.shiftLeft_eq, Nat.pow_one, Nat.mul_comm]
  have hsum : (2 * x.toNat + b.toNat) % (2 * 2 ^ m) = 2 * (x.toNat % 2 ^ m) + b.toNat := by
    rw [Nat.add_mod, Nat.mul_mod_mul_left, Nat.mod_eq_of_lt (show b.toNat < 2 * 2 ^ m by omega)]
    have := Nat.mod_lt x.toNat hpos
    exact Nat.mod_eq_of_lt (by omega)
  rw [BitVec.toNat_or, BitVec.toNat_shiftLeft, BitVec.toNat_setWidth, BitVec.toNat_ofBool, Nat.shiftLeft_eq, Nat.pow_one,
    Nat.mul_comm, hpow, hmod, hsum, Nat.mod_eq_of_lt (show b.toNat < 2 * 2 ^ m by omega),
    ← Nat.shiftLeft_add_eq_or_of_lt (show b.toNat < 2 ^ 1 from hb), Nat.shiftLeft_eq, Nat.pow_one, Nat.mul_comm]

theorem Ppu.reload_planes {p : Ppu} (hline : p.renderLine = true) (h336 : p.dot ≤ 336) :
    let loads := decide (p.dot % 8 = 1) && (decide (9 ≤ p.dot ∧ p.dot ≤ 257) || decide (p.dot = 329))
    p.reload.bgPat = (if loads then p.bgPat.reloadLow p.ptHi p.ptLo else p.bgPat) ∧
      p.reload.palLatch = (if loads then p.atByte.extractLsb' 0 2 else p.palLatch) := by
  intro loads
  have hcond : (p.renderLine && decide (p.dot % 8 = 1) && (p.dotIn 9 257 || p.dotIn 329 337)) = loads := by
    rw [hline, Bool.true_and, Bool.eq_iff_iff, Bool.and_eq_true, Bool.and_eq_true, Bool.or_eq_true, Bool.or_eq_true,
      Ppu.dotIn_iff, Ppu.dotIn_iff, decide_eq_true_eq, decide_eq_true_eq, decide_eq_true_eq]
    omega
  unfold Ppu.reload
  rw [hcond]
  cases loads <;> exact ⟨rfl, rfl⟩

/-- Settles O51: the eight dots of a tile, and the planes as numbers. -/
theorem backgroundIsFetchedAndShifted : Obligations.BackgroundIsFetchedAndShifted := by
  refine ⟨fun s nt attr lo hi ha hr hline h8 hplace => ?_, fun p q h ha hr hline h1 h336 => ?_⟩
  · intro v addr hnt hattr hlo hhi
    rw [← nametableAddr_eq] at hnt
    rw [← attributeAddr_eq] at hattr
    rw [show BitVec.ofNat 14 addr = _ from (patternAddr_eq ..).symm] at hlo
    rw [show BitVec.ofNat 14 (addr + 8) = _ from (patternAddr_high ..).symm] at hhi
    obtain ⟨t, hdots, hnt', hlo', hhi', hat⟩ := State.tile_dots (p0 := s.ppu) hr ((s.ppu.renderLine_iff).2 hline) h8 hplace
      ⟨ha, rfl, rfl, rfl, rfl, rfl⟩ hnt hattr hlo hhi
    refine ⟨t, hdots, hnt', hlo', hhi', hat.trans ?_⟩
    unfold attrShift
    rw [Nat.mul_comm 4, Nat.mul_comm 2]
  · intro loads pal low
    obtain ⟨r, hfront, -, -, hpat, hpal, hlatch, -⟩ := Ppu.step_fields h ha hr
    obtain ⟨a, x, n, at_, lo, hi, lo', sl, er⟩ := Ppu.front_only hfront
    obtain ⟨hreload, hload⟩ := Ppu.reload_planes (p := p.endStrobes) ((p.endStrobes.renderLine_iff).2 hline) h336
    have hrpat : r.bgPat = if loads then p.bgPat.reloadLow p.ptHi p.ptLo else p.bgPat := by rw [er]; exact hreload
    have hrlatch : r.palLatch = if loads then p.atByte.extractLsb' 0 2 else p.palLatch := by rw [er]; exact hload
    have hrpal : r.bgPal = p.bgPal := by rw [er]; rfl
    have hon : (r.renderLine && r.dotIn 1 336) = true := by
      rw [Bool.and_eq_true, Ppu.renderLine_iff, Ppu.dotIn_iff, er]
      exact ⟨hline, h1, h336⟩
    have hshift : r.shiftBackground = { r with bgPat := r.bgPat.shiftIn 0, bgPal := r.bgPal.shiftIn r.palLatch } := by
      unfold Ppu.shiftBackground; rw [if_pos hon]
    have hpalNat : r.palLatch.toNat = pal := by
      rw [hrlatch]
      show BitVec.toNat (if loads then _ else _) = if loads then _ else _
      cases loads
      · rfl
      · exact (BitVec.extractLsb'_toNat ..).trans rfl
    have hplane : ∀ (x : BitVec 16) (b : Byte),
        ((if loads then (x >>> 8) <<< 8 ||| b.setWidth 16 else x) <<< 1 ||| (BitVec.ofBool false).setWidth 16).toNat =
          2 * low x.toNat b.toNat % 65536 := by
      intro x b
      rw [shiftIn_toNat (m := 15)]
      show (2 * BitVec.toNat (if loads then _ else _) + 0) % 65536 = 2 * (if loads then _ else _) % 65536
      cases loads
      · rfl
      · rw [if_pos rfl, if_pos rfl, reloadLow_toNat, Nat.add_zero]
    have hbits := r.palLatch.isLt
    have hbit1 : (r.palLatch.getLsbD 1).toNat = pal / 2 := by
      rw [← hpalNat, getLsbD_eq_decide]
      interval_cases r.palLatch.toNat <;> rfl
    have hbit0 : (r.palLatch.getLsbD 0).toNat = pal % 2 := by
      rw [← hpalNat, getLsbD_eq_decide]
      interval_cases r.palLatch.toNat <;> rfl
    rw [hpat, hpal, hlatch, hshift]
    refine ⟨?_, ?_, ?_, ?_, hpalNat⟩
    · rw [hrpat, ← hplane]
      cases loads <;> rfl
    · rw [hrpat, ← hplane]
      cases loads <;> rfl
    · rw [← hbit1, hrpal]
      exact shiftIn_toNat (m := 7) _ _
    · rw [← hbit0, hrpal]
      exact shiftIn_toNat (m := 7) _ _

end Sys2Proof.Machine
end

section
/-! PROOF. The sprites' slots: the eight dots of a fetch, and the shifts of the visible dots (rules R368, R386). -/

namespace Sys2Proof.Machine

/-! ## A dot of a slot's fetch (rule R368) -/

/-- The registers that a sprite's fetch writes. -/
def Ppu.sprFetch (p : Ppu) : BitVec 14 × Bool × Byte × List Slot := (p.vramAddr, p.vramRd, p.sprLo, p.slots)

/-- On the dots of the sprites' fetches no background fetch stands before them. -/
theorem Ppu.slotDot_front {p : Ppu} (hdot : 257 ≤ p.dot ∧ p.dot ≤ 320) : ∃ b l f,
    p.endStrobes.reload.emitPixel.fetchBackground = { p.endStrobes with bgPat := b, palLatch := l, frameBuffer := f } := by
  obtain ⟨b, l, e1⟩ := p.endStrobes.reload_only
  obtain ⟨f, e2⟩ := p.endStrobes.reload.emitPixel_only
  refine ⟨b, l, f, ?_⟩
  rw [Ppu.fetchBackground_off, e2, e1]
  rw [← Bool.not_eq_true, Bool.or_eq_true, Ppu.dotIn_iff, Ppu.dotIn_iff, e2, e1]
  show ¬(1 ≤ p.dot ∧ p.dot ≤ 256 ∨ 321 ≤ p.dot ∧ p.dot ≤ 336)
  omega

theorem Ppu.shiftSprites_off {p : Ppu} (h : p.dotIn 1 256 = false) : p.shiftSprites = p := by
  unfold Ppu.shiftSprites; rw [h, Bool.and_false, if_neg Bool.false_ne_true]

/-- `k` dots into the fetch of a slot that began at `p0`. -/
structure Ppu.InSlot (p0 : Ppu) (k : Nat) (p : Ppu) : Prop where
  access : p.access = false
  ctrl : p.ctrl = p0.ctrl
  mask : p.mask = p0.mask
  scanline : p.scanline = p0.scanline
  dot : p.dot = p0.dot + k
  secOam : p.secOam = p0.secOam
  secCount : p.secCount = p0.secCount

/-- What a dot leaves of the state that its sprite fetch left. -/
theorem Ppu.step_slotDot {p0 p r : Ppu} {k : Nat} (h : p0.InSlot k p) (hr : p0.renderingEnabled = true)
    (hdot : 257 ≤ p.dot ∧ p.dot ≤ 320) (hf : p.endStrobes.reload.emitPixel.fetchBackground.fetchSprite = .ok r) :
    ∃ q, p.step = .ok q ∧ q.sprFetch = r.sprFetch ∧ q.vramWr = false ∧ p0.InSlot (k + 1) q := by
  obtain ⟨b, l, f, he⟩ := Ppu.slotDot_front hdot
  obtain ⟨a, x, lo, sl, er⟩ := Ppu.fetchSprite_only hf
  rw [he] at er
  have hd : r.dot = p.dot := by rw [er]; rfl
  have hoff : r.dotIn 1 256 = false := by rw [← Bool.not_eq_true, Ppu.dotIn_iff, hd]; omega
  have hr' : p.renderingEnabled = true := by unfold Ppu.renderingEnabled; rw [h.mask]; exact hr
  obtain ⟨m, n, o, w, fc, od, et, hsec, -⟩ := r.tail_only
  obtain ⟨rfl, rfl⟩ := hsec (by omega) (by omega)
  refine ⟨_, Ppu.step_rendering_ok h.access hr' hf, ?_⟩
  rw [et, Ppu.advanceCounters_within (by omega), Ppu.shiftSprites_off hoff]
  refine ⟨rfl, by rw [er]; rfl, ?_⟩
  constructor
  case dot => show r.dot + 1 = _; rw [hd, h.dot, Nat.add_assoc]
  case access => rw [er]; exact h.access
  case ctrl => rw [er]; exact h.ctrl
  case mask => rw [er]; exact h.mask
  case scanline => rw [er]; exact h.scanline
  case secOam => rw [er]; exact h.secOam
  case secCount => rw [er]; exact h.secCount

/-! ## The eight dots -/

/-- The byte of a row as the slot takes it, mirrored when its flip bit says so. -/
def turned (attr b : Byte) : Byte := if attr.getLsbD 6 then reverseByte b else b

/-- The slot loaded for the `n`th sprite of secondary OAM from its two pattern bytes. -/
def Ppu.slotOf (p : Ppu) (n : Nat) (hi lo : Byte) : Slot :=
  ⟨⟨turned (p.secOam.read (4 * n + 2)) hi, turned (p.secOam.read (4 * n + 2)) lo⟩, p.secOam.read (4 * n + 2),
    p.secOam.read (4 * n + 3)⟩

/-- The address of the sprite's row, low plane. -/
def Ppu.spriteAddr (p : Ppu) (n : Nat) : BitVec 14 :=
  patternAddr p.ctrl.sprPtBase (p.secOam.read (4 * n + 1))
    (spriteRow p.scanline (p.secOam.read (4 * n)) (p.secOam.read (4 * n + 2)))

/-- What the `k`th dot of the fetch of slot `n` writes, for a slot with a sprite and for one without. -/
def Ppu.slotFetch (p0 : Ppu) (n : Nat) (present : Bool) (p : Ppu) (k : Nat) : BitVec 14 × Bool × Byte × List Slot :=
  match present, k with
  | true, 4 => (p0.spriteAddr n, true, p.sprLo, p.slots)
  | true, 5 => (p.vramAddr, false, p.vramData, p.slots)
  | true, 6 => (p.vramAddr ||| 0x0008, true, p.sprLo, p.slots)
  | true, 7 => (p.vramAddr, false, p.sprLo, p.slots.set n (p0.slotOf n p.vramData p.sprLo))
  | false, 7 => (p.vramAddr, false, p.sprLo, p.slots.set n ⟨⟨0, 0⟩, 0, 0xFF⟩)
  | _, _ => (p.vramAddr, false, p.sprLo, p.slots)

theorem reloadLow_zero (a b : Byte) : (PlanePair.mk 0 0 : PlanePair 8).reloadLow a b = ⟨a, b⟩ := by
  unfold PlanePair.reloadLow
  simp

section SlotDots

variable {p0 : Ppu} {s : State} {n k : Nat} {present : Bool} (h : p0.InSlot k s.ppu) (hr : p0.renderingEnabled = true)
  (hline : p0.renderLine = true) (hdot : p0.dot = 257 + 8 * n) (hn : n < 8) (htall : p0.ctrl.spriteHeight16 = false)
  (hp : present = decide (n < p0.secCount))

include h hr hline hdot hn htall hp in
theorem Ppu.InSlot.step (hk : k < 8) : ∃ q, s.ppu.step = .ok q ∧ q.sprFetch = p0.slotFetch n present s.ppu k ∧
    q.vramWr = false ∧ p0.InSlot (k + 1) q := by
  have hd := h.dot
  have hplace : 257 ≤ s.ppu.dot ∧ s.ppu.dot ≤ 320 := by omega
  obtain ⟨b, l, f, he⟩ := Ppu.slotDot_front hplace
  set e : Ppu := { s.ppu.endStrobes with bgPat := b, palLatch := l, frameBuffer := f } with hedef
  have hon : (e.renderLine && e.dotIn 257 320) = true := by
    rw [Bool.and_eq_true, Ppu.dotIn_iff]
    refine ⟨?_, hplace⟩
    rw [Ppu.renderLine_iff] at hline ⊢
    exact h.scanline ▸ hline
  have hslot : (e.dot - 257) / 8 = n := by show (s.ppu.dot - 257) / 8 = n; omega
  have hsub : (e.dot - 257) % 8 = k := by show (s.ppu.dot - 257) % 8 = k; omega
  have hsec : e.secOam = p0.secOam := h.secOam
  have hcount : e.secCount = p0.secCount := h.secCount
  have hctrl : e.ctrl = p0.ctrl := h.ctrl
  have hscan : e.scanline = p0.scanline := h.scanline
  have fetch : ∃ r, e.fetchSprite = .ok r ∧ r.sprFetch = p0.slotFetch n present s.ppu k := by
    unfold Ppu.fetchSprite
    rw [if_pos hon]
    dsimp only
    rw [hslot, hsub, hsec, hcount, hctrl, hscan, htall]
    cases present with
    | true =>
      rw [if_pos (of_decide_eq_true hp.symm)]
      obtain rfl | hlt : k = 7 ∨ k < 7 := by omega
      · have hturn : ∀ c : Byte, turned (p0.secOam.read (4 * n + 2)) c =
            if (p0.secOam.read (4 * n + 2)).getLsbD 6 then reverseByte c else c := fun _ => rfl
        unfold Ppu.slotFetch Ppu.slotOf
        rw [hturn, hturn]
        cases (p0.secOam.read (4 * n + 2)).getLsbD 6
        · exact ⟨_, rfl, by simp only [Ppu.sprFetch, Ppu.loadSlot, reloadLow_zero]; rfl⟩
        · exact ⟨_, rfl, by simp only [Ppu.sprFetch, Ppu.loadSlot, reloadLow_zero]; rfl⟩
      · interval_cases k <;> exact ⟨_, rfl, rfl⟩
    | false =>
      rw [if_neg (of_decide_eq_false hp.symm)]
      obtain rfl | hlt : k = 7 ∨ k < 7 := by omega
      · exact ⟨_, rfl, by simp only [Ppu.sprFetch, Ppu.loadSlot, reloadLow_zero]; rfl⟩
      · interval_cases k <;> exact ⟨_, rfl, rfl⟩
  obtain ⟨r, hf, hfetch⟩ := fetch
  obtain ⟨q, hq, hsame, hwr, hnext⟩ := Ppu.step_slotDot h hr hplace (by rw [he]; exact hf)
  exact ⟨q, hq, hsame.trans hfetch, hwr, hnext⟩

include h hr hline hdot hn htall hp in
/-- A dot of a slot's fetch that asks for a byte. -/
theorem State.slot_reads {a : BitVec 14} {d : Byte} (hk : k < 8)
    (hf : p0.slotFetch n present s.ppu k = (a, true, s.ppu.sprLo, s.ppu.slots)) (hd : s.ppuBusRead a = .ok d) :
    ∃ t, s.ppuStep = .ok t ∧ p0.InSlot (k + 1) t.ppu ∧ t.ppu.vramData = d ∧
      t.ppu.sprFetch = (a, true, s.ppu.sprLo, s.ppu.slots) ∧ ∀ a, t.ppuBusRead a = s.ppuBusRead a := by
  obtain ⟨q, hq, hfetch, hwr, hnext⟩ := h.step hr hline hdot hn htall hp hk
  rw [hf] at hfetch
  have haddr : q.vramAddr = a := congrArg Prod.fst hfetch
  have hrd : q.vramRd = true := congrArg (fun x => x.2.1) hfetch
  exact ⟨{ s with ppu := { q with vramData := d } }, State.ppuStep_reads hq hrd hwr (by rw [haddr]; exact hd),
    { hnext with }, rfl, hfetch, fun _ => rfl⟩

include h hr hline hdot hn htall hp in
/-- A dot of a slot's fetch that asks for none. -/
theorem State.slot_takes (hk : k < 8) (hf : (p0.slotFetch n present s.ppu k).2.1 = false) :
    ∃ t, s.ppuStep = .ok t ∧ p0.InSlot (k + 1) t.ppu ∧ t.ppu.sprFetch = p0.slotFetch n present s.ppu k ∧
      ∀ a, t.ppuBusRead a = s.ppuBusRead a := by
  obtain ⟨q, hq, hfetch, hwr, hnext⟩ := h.step hr hline hdot hn htall hp hk
  have hrd : q.vramRd = false := (congrArg (fun x => x.2.1) hfetch).trans hf
  exact ⟨_, State.ppuStep_quiet hq hrd hwr, hnext, hfetch, fun _ => rfl⟩

include hr hline hdot hn htall hp in
/-- The dots before the first byte is asked for, all eight but the last where there is no sprite. -/
theorem State.slot_idles (h : p0.InSlot 0 s.ppu) (hk : k ≤ if present then 4 else 7) :
    ∃ t, (∀ m, State.dots (k + m) s = State.dots m t) ∧ p0.InSlot k t.ppu ∧ t.ppu.slots = s.ppu.slots ∧
      ∀ a, t.ppuBusRead a = s.ppuBusRead a := by
  induction k with
  | zero => exact ⟨s, fun m => by rw [Nat.zero_add], h, rfl, fun _ => rfl⟩
  | succ k ih =>
    obtain ⟨t, hrun, hin, hslots, hread⟩ := ih (by omega)
    have hidle : p0.slotFetch n present t.ppu k = (t.ppu.vramAddr, false, t.ppu.sprLo, t.ppu.slots) := by
      cases present
      · have hk7 : k < 7 := hk
        interval_cases k <;> rfl
      · have hk4 : k < 4 := hk
        interval_cases k <;> rfl
    have hk8 : k < 8 := by cases present <;> simp only [Bool.false_eq_true, if_false, if_true] at hk <;> omega
    obtain ⟨u, hu, hin', hfetch, hread'⟩ := State.slot_takes hin hr hline hdot hn htall hp hk8 (by rw [hidle])
    rw [hidle] at hfetch
    refine ⟨u, fun m => ?_, hin', (congrArg (fun x => x.2.2.2) hfetch).trans hslots, fun a => (hread' a).trans (hread a)⟩
    rw [show k + 1 + m = k + (m + 1) by omega, hrun, State.dots_succ hu]

end SlotDots

theorem reverseByte_eq (b : Byte) : reverseByte b = b.reverse := by
  revert b; decide

theorem spriteRow_toNat (scanline : Nat) (y attr : Byte) : (spriteRow scanline y attr).toNat =
    if attr.getLsbD 7 then 7 - (scanline + 1 + 256 - y.toNat) % 8 else (scanline + 1 + 256 - y.toNat) % 8 := by
  have hy := y.isLt
  have hrow : (BitVec.ofNat 3 (scanline + 1) - y.setWidth 3 : BitVec 3).toNat = (scanline + 1 + 256 - y.toNat) % 8 := by
    rw [BitVec.toNat_sub, BitVec.toNat_ofNat, BitVec.toNat_setWidth]
    omega
  unfold spriteRow
  dsimp only
  split
  · rw [BitVec.toNat_sub, hrow]
    show (2 ^ 3 - _ + 7) % 2 ^ 3 = _
    omega
  · exact hrow

theorem Slot.advance_eq (sl : Slot) : sl.advance =
    if sl.xcnt = 0 then { sl with pat := ⟨sl.pat.u <<< 1, sl.pat.l <<< 1⟩ } else { sl with xcnt := sl.xcnt - 1 } := by
  have hshift : sl.pat.shiftIn 0 = ⟨sl.pat.u <<< 1, sl.pat.l <<< 1⟩ := by
    unfold PlanePair.shiftIn
    simp
  unfold Slot.advance
  rw [hshift]

/-- Settles O50: the eight dots of a slot, with a sprite and without; and the visible dots. -/
theorem spritesAreFetchedAndShifted : Obligations.SpritesAreFetchedAndShifted := by
  refine ⟨fun s n lo hi ha hr htall hline hn hdot _ => ?_, fun p q sl n h ha hr hline h1 h256 hsl => ?_⟩
  · intro y tile attr x row addr turn
    have hrl : s.ppu.renderLine = true := (s.ppu.renderLine_iff).2 hline
    have h0 : s.ppu.InSlot 0 s.ppu := ⟨ha, rfl, rfl, rfl, rfl, rfl, rfl⟩
    have hturn : ∀ b, turned attr b = turn b := fun b => by
      show (if _ then reverseByte b else b) = if _ then b.reverse else b
      rw [reverseByte_eq]
    have haddr : s.ppu.spriteAddr n = BitVec.ofNat 14 addr := by
      unfold Ppu.spriteAddr
      rw [patternAddr_eq, spriteRow_toNat]
    have hhigh : s.ppu.spriteAddr n ||| 0x0008 = BitVec.ofNat 14 (addr + 8) := by
      unfold Ppu.spriteAddr
      rw [patternAddr_high, spriteRow_toNat]
    refine ⟨fun hcount hlo hhi => ?_, fun hcount => ?_⟩
    · have hp : true = decide (n < s.ppu.secCount) := (decide_eq_true hcount).symm
      obtain ⟨t4, r4, i4, sl4, b4⟩ := State.slot_idles (k := 4) hr hrl hdot hn htall hp h0 (by decide)
      obtain ⟨t5, r5, i5, d5, f5, b5⟩ := State.slot_reads i4 hr hrl hdot hn htall hp (by decide) rfl
        (by rw [haddr, b4]; exact hlo)
      obtain ⟨t6, r6, i6, f6, b6⟩ := State.slot_takes i5 hr hrl hdot hn htall hp (by decide) rfl
      simp only [Ppu.sprFetch, Ppu.slotFetch, Prod.mk.injEq] at f5 f6
      have haddr6 : t6.ppu.vramAddr = s.ppu.spriteAddr n := by simp only [f6, f5]
      obtain ⟨t7, r7, i7, d7, f7, b7⟩ := State.slot_reads i6 hr hrl hdot hn htall hp (by decide) rfl
        (by rw [haddr6, hhigh, b6, b5, b4]; exact hhi)
      obtain ⟨t8, r8, -, f8, -⟩ := State.slot_takes i7 hr hrl hdot hn htall hp (by decide) rfl
      simp only [Ppu.sprFetch, Ppu.slotFetch, Prod.mk.injEq] at f7 f8
      refine ⟨t8, ?_, ?_⟩
      · rw [r4 4, State.dots_succ r5, State.dots_succ r6, State.dots_succ r7, State.dots_succ r8]
        rfl
      · rw [f8.2.2.2, d7, f7.2.2.1, f7.2.2.2, f6.2.2.1, f6.2.2.2, d5, f5.2.2.2, sl4, ← hturn, ← hturn]
        rfl
    · have hp : false = decide (n < s.ppu.secCount) := (decide_eq_false (Nat.not_lt.2 hcount)).symm
      obtain ⟨t7, r7, i7, sl7, -⟩ := State.slot_idles (k := 7) hr hrl hdot hn htall hp h0 (by decide)
      obtain ⟨t8, r8, -, f8, -⟩ := State.slot_takes i7 hr hrl hdot hn htall hp (by decide) rfl
      refine ⟨t8, ?_, (congrArg (fun x => x.2.2.2) f8).trans ?_⟩
      · rw [r7 1, State.dots_succ r8]; rfl
      · rw [← sl7]; rfl
  · obtain ⟨r, hfront, -, -, -, -, -, hslots, -⟩ := Ppu.step_fields h ha hr
    obtain ⟨b, l, e1⟩ := p.endStrobes.reload_only
    obtain ⟨f, e2⟩ := p.endStrobes.reload.emitPixel_only
    obtain ⟨a, x, nt, at_, lo, hi, e3⟩ := p.endStrobes.reload.emitPixel.fetchBackground_only
    have hnone : p.endStrobes.reload.emitPixel.fetchBackground.dotIn 257 320 = false := by
      rw [← Bool.not_eq_true, Ppu.dotIn_iff, e3, e2, e1]
      show ¬(257 ≤ p.dot ∧ p.dot ≤ 320)
      omega
    rw [Ppu.fetchSprite_off hnone] at hfront
    cases hfront
    have hshift : p.endStrobes.reload.emitPixel.fetchBackground.shiftSprites.slots = p.slots.map Slot.advance := by
      unfold Ppu.shiftSprites Ppu.visibleLine
      rw [if_pos, e3, e2, e1]
      · rfl
      · rw [Bool.and_eq_true, decide_eq_true_eq, Ppu.dotIn_iff, e3, e2, e1]
        exact ⟨hline, h1, h256⟩
    rw [hslots, hshift, List.getElem?_map, hsl, Option.map_some, Slot.advance_eq]

end Sys2Proof.Machine
end

section
/-! PROOF. Branches, the stack instructions, jumps, subroutines, BRK and RTI (rules R300 to R332). -/

namespace Sys2Proof.Machine

/-! ## Rows these instructions share -/

/-- What the last row leaves at the boundary, when no action is deferred. -/
theorem State.commit_of_none {t : State} (h : t.cpu.deferred = .none) : t.commit = t :=
  congrArg t.withCpu (Cpu.runDeferred_none h)

/-- The boundary keeps all that `Quiet` speaks of. -/
theorem Quiet.commit {n : Nat} {s t : State} (h : Quiet n s t) : Quiet n s t.commit := h.withCpu _

/-- The registers a deferred jump leaves. -/
theorem State.commit_jump {t : State} {l : Byte} (h : t.cpu.deferred = .jump l) :
    t.commit.cpu.regs = { t.cpu.regs with pc := joinBytes t.cpu.db l } := Cpu.runDeferred_jump h

/-- The dummy read of T2. -/
theorem runFrom_dummy {s : State} (rows : List Row) (hs : s.BusReady) (hr : s.readable s.cpu.regs.pc = true) :
    ∃ t v n p q, s.runFrom s.cpu 2 (rowDummy :: rows) = (t.runRows rows).result ∧ Quiet 1 s t ∧
      t.cpu = { s.cpu with t := 3, sync := false, ab := s.cpu.regs.pc, rw := .read, db := v, pendingNmi := n,
                           nmiPrev := p, irqLine := q } := by
  obtain ⟨t, v, n, p, q, hrun, hq, hc, -⟩ := State.runRows_read_of (s := s.withCpu { s.cpu with t := 2 }) (r := rowDummy)
    rows hs rfl rfl hr (show (3 : Nat) ≠ 1 by omega)
  exact ⟨t, v, n, p, q, congrArg Run.result hrun, hq.of_withCpu, hc⟩

/-- The dummy read of T2 and the one of the stack top. -/
theorem runFrom_dummy_pull {s : State} (rows : List Row) (hs : s.BusReady) (hr : s.readable s.cpu.regs.pc = true) :
    ∃ t v n p q, s.runFrom s.cpu 2 (rowDummy :: rowPullDummy :: rows) = (t.runRows rows).result ∧ Quiet 2 s t ∧
      t.cpu = { s.cpu with t := 4, sync := false, ab := stackAddr s.cpu.regs.s, rw := .read, db := v, pendingNmi := n,
                           nmiPrev := p, irqLine := q, regs := { s.cpu.regs with s := s.cpu.regs.s + 1 } } := by
  obtain ⟨t1, v1, n1, p1, q1, r1, k1, c1⟩ := runFrom_dummy (rowPullDummy :: rows) hs hr
  obtain ⟨t2, v2, n2, p2, q2, r2, k2, c2, -⟩ := State.runRows_read_of (s := t1) (r := rowPullDummy)
    (c := { t1.cpu with t := 4, sync := false, ab := stackAddr s.cpu.regs.s, rw := .read,
                        regs := { s.cpu.regs with s := s.cpu.regs.s + 1 } })
    rows (k1.busReady hs) (by simp only [drives, rowPullDummy, c1, Cpu.rdStackInc, Cpu.rd, Cpu.setS, Cpu.next])
    rfl (t1.readable_stack _) (show (4 : Nat) ≠ 1 by omega)
  exact ⟨t2, v2, n2, p2, q2, by rw [r1, r2], k1.trans k2, by rw [c2, c1]⟩

/-! ## Branches -/

theorem signExtend16_ofInt {off : Int} (h : Sys2Proof.offsetInRange off = true) :
    signExtend16 (BitVec.ofInt 8 off) = BitVec.ofInt 16 off := by
  unfold signExtend16 BitVec.signExtend
  rw [toInt_ofInt_of_offsetInRange h]

/-- A well-formed branch has an offset in range. -/
theorem offsetInRange_of_branch {i : Instr} {k : Cond} {off : Int} (h : formOf i = .branch k off)
    (hw : i.wellFormed = true) : Sys2Proof.offsetInRange off = true := by
  cases i <;> cases h <;> exact hw

/-- A branch not taken. -/
theorem branch_not_taken {k : Cond} {s : State} (off : Int) (hs : s.CanRun) (hk : k.holds s.cpu.regs.p = false) :
    branch k off s = .next (s.withCpu { s.cpu.holdByte (BitVec.ofInt 8 off) with t := 1 }) := by
  have hk' : ¬ k.holds (s.cpu.holdByte (BitVec.ofInt 8 off)).regs.p = true := by
    show ¬ k.holds s.cpu.regs.p = true
    rw [hk]
    exact Bool.false_ne_true
  unfold branch
  exact (if_neg hk').trans (congrArg _ (State.commit_of_none hs.2))

/-- A branch taken: the read of the next opcode, and the one of the uncarried target when the page is crossed. -/
theorem branch_taken {k : Cond} {s : State} {off : Int} {target : Word} (hs : s.CanRun)
    (ht : target = s.cpu.regs.pc + signExtend16 (BitVec.ofInt 8 off)) (hk : k.holds s.cpu.regs.p = true)
    (hr : s.readable s.cpu.regs.pc = true)
    (hr' : s.readable (joinBytes (hiByte s.cpu.regs.pc) (loByte target)) = true) :
    ∃ t, branch k off s = .next t ∧ t.cpu.regs = { s.cpu.regs with pc := target } ∧ Untouched s t ∧
      Quiet (if hiByte target = hiByte s.cpu.regs.pc then 1 else 2) s t := by
  have hbranch : branch k off s = s.runFrom (s.cpu.holdByte (BitVec.ofInt 8 off)) 3 [rowBranchTaken, rowBranchCross] := by
    unfold branch
    exact if_pos hk
  set s0 := s.withCpu { s.cpu.holdByte (BitVec.ofInt 8 off) with t := 3 } with hs0
  by_cases hpage : hiByte target = hiByte s.cpu.regs.pc
  · obtain ⟨t1, v1, n1, p1, q1, r1, k1, c1, -⟩ := State.runRows_read_last_of (s := s0) (r := rowBranchTaken)
      (c := { s.cpu.holdByte (BitVec.ofInt 8 off) with
                t := 1, sync := false, ea := target, ab := s.cpu.regs.pc, rw := .read,
                regs := { s.cpu.regs with pc := target } })
      [rowBranchCross] hs.1 (by
        simp only [drives, rowBranchTaken, hs0, State.withCpu, Cpu.holdByte, ← ht, Cpu.rdPc, Cpu.rd]
        rw [if_pos hpage]
        rfl) rfl hr rfl
    have hq : Quiet 1 s t1 := k1.of_withCpu
    have hcm : t1.commit = t1 := State.commit_of_none (by rw [c1]; exact hs.2)
    refine ⟨t1, ?_, by rw [c1], ?_, by rw [if_pos hpage]; exact hq⟩
    · rw [hbranch, ← hcm]; exact congrArg Run.result r1
    · rw [← hcm]; exact hq.untouched (by rw [c1]; rfl) (by rw [c1]; rfl)
  · obtain ⟨t1, v1, n1, p1, q1, r1, k1, c1, -⟩ := State.runRows_read_of (s := s0) (r := rowBranchTaken)
      (c := { s.cpu.holdByte (BitVec.ofInt 8 off) with
                t := 4, sync := false, ea := target, ab := s.cpu.regs.pc, rw := .read })
      [rowBranchCross] hs.1 (by
        simp only [drives, rowBranchTaken, hs0, State.withCpu, Cpu.holdByte, ← ht, Cpu.rdPc, Cpu.rd]
        rw [if_neg hpage]
        rfl) rfl hr (show (4 : Nat) ≠ 1 by omega)
    have k1' : Quiet 1 s t1 := k1.of_withCpu
    obtain ⟨t2, v2, n2, p2, q2, r2, k2, c2, -⟩ := State.runRows_read_last_of (s := t1) (r := rowBranchCross)
      (c := { t1.cpu with
                t := 1, sync := false, ab := joinBytes (hiByte s.cpu.regs.pc) (loByte target), rw := .read,
                regs := { s.cpu.regs with pc := target } })
      [] (k1'.busReady hs.1) (by simp only [drives, rowBranchCross, c1, Cpu.rd, Cpu.setPc, Cpu.last, Cpu.holdByte])
      rfl ((k1'.readable _).trans hr') rfl
    have hq := k1'.trans k2
    have hcm : t2.commit = t2 := State.commit_of_none (by rw [c2, c1]; exact hs.2)
    refine ⟨t2, ?_, by rw [c2], ?_, by rw [if_neg hpage]; exact hq⟩
    · rw [hbranch, ← hcm]; exact congrArg Run.result (r1.trans r2)
    · rw [← hcm]; exact hq.untouched (by rw [c2, c1]; rfl) (by rw [c2, c1]; rfl)

/-- Settles O28, by whether the branch is taken. -/
theorem branchInstructions : Obligations.BranchInstructions := by
  intro i k off s hi hw hs p taken target
  have htaken : k.holds s.cpu.regs.p = taken := by cases k <;> rfl
  have hrun : exec i s = branch k off s := by rw [exec_form, hi]; rfl
  have htarget : target = s.cpu.regs.pc + signExtend16 (BitVec.ofInt 8 off) := by
    rw [signExtend16_ofInt (offsetInRange_of_branch hi hw)]
  rw [hrun]
  refine ⟨fun h => ?_, fun h hr hr' => ?_⟩
  · exact ⟨_, branch_not_taken off hs (htaken.trans h), rfl, fun _ => rfl,
      ⟨rfl, rfl, rfl, rfl, rfl, rfl, rfl, rfl, rfl⟩, rfl⟩
  · obtain ⟨t, ht, hregs, hun, hq⟩ := branch_taken hs htarget (htaken.trans h) hr hr'
    exact ⟨t, ht, hregs, hq.peek, hun, hq.cyc⟩

/-! ## Pushes and pulls -/

/-- A stack changed only at cells of `cells`: no other byte changes. -/
theorem Quiet.sameBytes {n : Nat} {s t : State} {m : Memory} {cells : List Target} (h : Quiet n (s.withRam m) t)
    (hm : ∀ k, Target.ram k ∉ cells → m.read k = s.ram.read k) : SameBytesExcept cells s t := by
  intro a ha
  rw [h.peek]
  unfold State.cellOf at ha
  unfold State.peek
  cases hT : cpuTarget a <;> simp only [hT] at ha ⊢ <;> try rfl
  exact congrArg some (hm _ ha)

/-- A push writes its own cell only. -/
theorem read_push_other {m : Memory} {x v : Byte} {cells : List Target} (hx : stackCell x 0 ∈ cells) {k : Nat}
    (hk : Target.ram k ∉ cells) : (m.write (256 + x.toNat) v).read k = m.read k := by
  refine Memory.read_write_other _ (fun e => hk ?_) _
  rw [e]
  simpa [stackCell_eq] using hx

/-- PHA and PHP: the dummy read, then the push. -/
theorem pushRows_next {s : State} {r : Row} {f : Regs → Byte} (hr : ∀ c, r c = (c.push (f c.regs)).last) (hs : s.CanRun)
    (hpc : s.readable s.cpu.regs.pc = true) :
    ∃ t, s.runFrom s.cpu 2 [rowDummy, r] = .next t ∧ t.cpu.regs = { s.cpu.regs with s := s.cpu.regs.s - 1 } ∧
      Untouched s t ∧ Quiet 2 (s.withRam (s.ram.write (256 + s.cpu.regs.s.toNat) (f s.cpu.regs))) t := by
  obtain ⟨t1, v1, n1, p1, q1, r1, k1, c1⟩ := runFrom_dummy [r] hs.1 hpc
  obtain ⟨t2, n2, p2, q2, r2, k2, c2⟩ := State.runRows_push_last (s := t1) (r := r) (x := s.cpu.regs.s)
    (v := f s.cpu.regs)
    (c := { t1.cpu with t := 1, sync := false, ab := stackAddr s.cpu.regs.s, rw := .write, db := f s.cpu.regs,
                        regs := { s.cpu.regs with s := s.cpu.regs.s - 1 } })
    [] (k1.busReady hs.1) (by simp only [drives, hr, c1, Cpu.push, Cpu.wr, Cpu.setS, Cpu.last]) rfl rfl rfl rfl
  have hq := k1.trans_ram k2
  rw [k1.ram] at hq
  have hcm : t2.commit = t2 := State.commit_of_none (by rw [c2, c1]; exact hs.2)
  have hun := hq.untouched (by rw [c2, c1]; rfl) (by rw [c2, c1]; rfl)
  rw [hcm] at hun
  exact ⟨t2, by rw [r1, r2, hcm]; rfl, by rw [c2], { hun with }, hq⟩

/-- PLA and PLP: two dummy reads, then the pull, whose byte the deferred action uses. -/
theorem pullRows_next {s : State} {d : Deferred} {v : Byte} (hs : s.CanRun) (hpc : s.readable s.cpu.regs.pc = true)
    (hv : s.peek (stackAddr (s.cpu.regs.s + 1)) = some v) :
    ∃ t : State, s.runFrom s.cpu 2 [rowDummy, rowPullDummy, rowPull d] = .next t.commit ∧ t.cpu.deferred = d ∧
      t.cpu.db = v ∧ t.cpu.regs = { s.cpu.regs with s := s.cpu.regs.s + 1 } ∧ Untouched s t.commit ∧
      Quiet 3 s t.commit := by
  obtain ⟨t1, v1, n1, p1, q1, r1, k1, c1⟩ := runFrom_dummy_pull [rowPull d] hs.1 hpc
  obtain ⟨t2, v2, n2, p2, q2, r2, k2, c2, w2⟩ := State.runRows_read_last_of (s := t1) (r := rowPull d)
    (c := { t1.cpu with t := 1, sync := false, ab := stackAddr (s.cpu.regs.s + 1), rw := .read, deferred := d })
    [] (k1.busReady hs.1) (by simp only [drives, rowPull, c1, Cpu.rdStack, Cpu.rd, Cpu.last]) rfl
    (t1.readable_stack _) rfl
  have hq := k1.trans k2
  refine ⟨t2, by rw [r1, r2]; rfl, by rw [c2], ?_, by rw [c2, c1], ?_, hq.commit⟩
  · rw [c2]; exact w2 v ((k1.peek _).trans hv)
  · exact hq.untouched (by rw [c2, c1]) (by rw [c2, c1])

/-- Bit `j` of a status byte (rule R25). -/
theorem Flags.toByte_bits (p : Flags) (b : Bool) :
    (p.toByte b).getLsbD 7 = p.n ∧ (p.toByte b).getLsbD 6 = p.v ∧ (p.toByte b).getLsbD 5 = true ∧
      (p.toByte b).getLsbD 4 = b ∧ (p.toByte b).getLsbD 3 = p.d ∧ (p.toByte b).getLsbD 2 = p.i ∧
      (p.toByte b).getLsbD 1 = p.z ∧ (p.toByte b).getLsbD 0 = p.c := by
  obtain ⟨c, z, i, d, v, n⟩ := p
  revert c z i d v n b
  decide

/-- A byte is its eight bits. -/
theorem Byte.eq_of_bits {v w : Byte} (h7 : v.getLsbD 7 = w.getLsbD 7) (h6 : v.getLsbD 6 = w.getLsbD 6)
    (h5 : v.getLsbD 5 = w.getLsbD 5) (h4 : v.getLsbD 4 = w.getLsbD 4) (h3 : v.getLsbD 3 = w.getLsbD 3)
    (h2 : v.getLsbD 2 = w.getLsbD 2) (h1 : v.getLsbD 1 = w.getLsbD 1) (h0 : v.getLsbD 0 = w.getLsbD 0) : v = w := by
  apply BitVec.eq_of_getLsbD_eq
  intro i hi
  interval_cases i
  exacts [h0, h1, h2, h3, h4, h5, h6, h7]

/-- Settles O29: the dummy reads, then the push or the pull. -/
theorem pushesAndPulls : Obligations.PushesAndPulls := by
  intro s hs hpc
  refine ⟨fun i v hm hi => ?_, fun v hv => ⟨?_, ?_⟩⟩
  · have hpush : ∃ t, exec i s = .next t ∧ t.cpu.regs = { s.cpu.regs with s := s.cpu.regs.s - 1 } ∧ Untouched s t ∧
        Quiet 2 (s.withRam (s.ram.write (256 + s.cpu.regs.s.toNat) v)) t := by
      obtain ⟨rfl, rfl⟩ | ⟨rfl, h7, h6, h5, h4, h3, h2, h1, h0⟩ := hi
      · exact pushRows_next (r := rowPushA) (f := fun r => r.a) (fun _ => rfl) hs hpc
      · obtain ⟨b7, b6, b5, b4, b3, b2, b1, b0⟩ := s.cpu.regs.p.toByte_bits true
        have hv : v = s.cpu.regs.p.toByte true :=
          Byte.eq_of_bits (h7.trans b7.symm) (h6.trans b6.symm) (h5.trans b5.symm) (h4.trans b4.symm) (h3.trans b3.symm)
            (h2.trans b2.symm) (h1.trans b1.symm) (h0.trans b0.symm)
        rw [hv]
        exact pushRows_next (r := rowPushP) (f := fun r => r.p.toByte true) (fun _ => rfl) hs hpc
    obtain ⟨t, ht, hregs, hun, hq⟩ := hpush
    refine ⟨t, ht, hregs, ?_, hq.sameBytes fun k hk => read_push_other (List.mem_singleton.2 rfl) hk, hun, hq.cyc⟩
    rw [State.peek_stack, hq.ram]
    exact congrArg some (Memory.read_write_same (Memory.wfSize_wf hm.ram) _ _)
  · obtain ⟨t, ht, hd, hdb, hregs, hun, hq⟩ := pullRows_next (d := .pullA) hs hpc hv
    refine ⟨t.commit, ht, ?_, hq.peek, hun, hq.cyc⟩
    rw [State.commit_cpu]
    unfold Cpu.runDeferred
    rw [hd]
    simp only [hdb, hregs, Flags.setNZ_eq]
  · obtain ⟨t, ht, hd, hdb, hregs, hun, hq⟩ := pullRows_next (d := .pullP) hs hpc hv
    refine ⟨t.commit, ht, ?_, hq.peek, hun, hq.cyc⟩
    rw [State.commit_cpu]
    unfold Cpu.runDeferred
    rw [hd]
    simp only [hdb, hregs, Cpu.setP, Flags.ofByte]

/-! ## Jumps -/

/-- JMP indirect: two reads, the second in the pointer's own page. -/
theorem jumpIndirect_next {s : State} {a : Word} {l h : Byte} (hs : s.CanRun) (hl : s.peek a = some l)
    (hh : s.peek (pointerNext a) = some h) :
    ∃ t, jumpIndirect a s = .next t ∧ t.cpu.regs = { s.cpu.regs with pc := joinBytes h l } ∧ Untouched s t ∧
      Quiet 2 s t := by
  obtain ⟨t1, v1, n1, p1, q1, r1, k1, c1, w1⟩ := State.runRows_read_of
    (s := s.withCpu { s.cpu.holdWord a with t := 4 }) (r := rowPointerLo)
    (c := { s.cpu.holdWord a with t := 5, sync := false, hi := hiByte a, ea := a, ab := a, rw := .read })
    [rowPointerHi] hs.1
    (by simp only [drives, rowPointerLo, State.withCpu, Cpu.holdWord, Cpu.rd, Cpu.next, joinBytes_hiByte_loByte])
    rfl (State.readable_of_peek hl) (show (5 : Nat) ≠ 1 by omega)
  have k1' : Quiet 1 s t1 := k1.of_withCpu
  have e1 : v1 = l := w1 l hl
  obtain ⟨t2, v2, n2, p2, q2, r2, k2, c2, w2⟩ := State.runRows_read_last_of (s := t1) (r := rowPointerHi)
    (c := { t1.cpu with t := 1, sync := false, lo := l, ab := pointerNext a, rw := .read, deferred := .jump l })
    [] (k1'.busReady hs.1) (by simp only [drives, rowPointerHi, c1, e1, Cpu.rd, Cpu.last]) rfl
    ((k1'.readable _).trans (State.readable_of_peek hh)) rfl
  have hq := k1'.trans k2
  have e2 : v2 = h := w2 h ((k1'.peek _).trans hh)
  refine ⟨t2.commit, congrArg Run.result (r1.trans r2), ?_,
    hq.untouched (by rw [c2, c1]; rfl) (by rw [c2, c1]; rfl), hq.commit⟩
  rw [State.commit_jump (l := l) (by rw [c2]), c2, c1, e2]
  rfl

/-- Settles O30: the deferred jump of each. -/
theorem jumps : Obligations.Jumps := by
  intro a s
  refine ⟨?_, fun l h hs hl hh => ?_⟩
  · set t : State := s.withCpu { s.cpu.holdWord a with deferred := .jump (loByte a), t := 1 } with ht
    obtain ⟨-, -, -, -, hreset, hline, -, -⟩ := t.cpu.runDeferred_frame
    refine ⟨t.commit, rfl, ?_, fun _ => rfl, ⟨rfl, rfl, rfl, rfl, rfl, rfl, rfl, hreset, hline⟩, rfl⟩
    rw [State.commit_jump (l := loByte a) rfl]
    show { s.cpu.regs with pc := joinBytes (hiByte a) (loByte a) } = _
    rw [joinBytes_hiByte_loByte]
  · obtain ⟨t, ht, hregs, hun, hq⟩ := jumpIndirect_next hs hl hh
    exact ⟨t, ht, hregs, hq.peek, hun, hq.cyc⟩

/-! ## Subroutines -/

/-- The stack as JSR leaves it. -/
def pushed2 (m : Memory) (s a b : Byte) : Memory := (m.write (256 + s.toNat) a).write (256 + (s - 1).toNat) b

/-- The two bytes are read back, and no other byte changes. -/
theorem Quiet.pushed2_peek {n : Nat} {s t : State} {x a b : Byte} (hm : MemoriesOk s)
    (h : Quiet n (s.withRam (pushed2 s.ram x a b)) t) :
    t.peek (stackAddr x) = some a ∧ t.peek (stackAddr (x - 1)) = some b ∧
      SameBytesExcept [stackCell x 0, stackCell x 1] s t := by
  have hwf := Memory.wfSize_wf hm.ram
  have hne : 256 + x.toNat ≠ 256 + (x - 1).toNat := by bv_omega
  have hram : t.ram = pushed2 s.ram x a b := h.ram
  refine ⟨?_, ?_, h.sameBytes fun k hk => ?_⟩
  · rw [State.peek_stack, hram, pushed2, Memory.read_write_other _ hne, Memory.read_write_same hwf]
  · rw [State.peek_stack, hram, pushed2, Memory.read_write_same (Memory.wf_write hwf _ _)]
  · have hlow : stackCell (x - 1) 0 ∈ [stackCell x 0, stackCell x 1] := by simp [stackCell_eq]
    rw [pushed2, read_push_other hlow hk, read_push_other (List.mem_cons_self ..) hk]

/-- JSR from its third cycle on: a dummy read, two pushes, and the read of the target's high byte. -/
theorem jumpSubroutine_next {s : State} (a : Word) (hs : s.CanRun) (hpc : s.readable s.cpu.regs.pc = true) :
    ∃ t h, jumpSubroutine a s = .next t ∧
      t.cpu.regs = { s.cpu.regs with s := s.cpu.regs.s - 2, pc := joinBytes h (loByte a) } ∧
      (∀ v, t.peek s.cpu.regs.pc = some v → h = v) ∧ Untouched s t ∧ t.cpu.deferred = .none ∧
      Quiet 4 (s.withRam (pushed2 s.ram s.cpu.regs.s (hiByte s.cpu.regs.pc) (loByte s.cpu.regs.pc))) t := by
  obtain ⟨t1, v1, n1, p1, q1, r1, k1, c1, -⟩ := State.runRows_read_of
    (s := s.withCpu { s.cpu.holdByte (loByte a) with t := 3 }) (r := rowJsrDummy)
    (c := { s.cpu.holdByte (loByte a) with
              t := 4, sync := false, lo := loByte a, ab := stackAddr s.cpu.regs.s, rw := .read })
    [rowJsrPushHi, rowJsrPushLo, rowJsrTarget] hs.1 rfl rfl (s.readable_stack _) (show (4 : Nat) ≠ 1 by omega)
  have k1' : Quiet 1 s t1 := k1.of_withCpu
  obtain ⟨t2, n2, p2, q2, r2, k2, c2⟩ := State.runRows_push (s := t1) (r := rowJsrPushHi) (x := s.cpu.regs.s)
    (v := hiByte s.cpu.regs.pc)
    (c := { t1.cpu with t := 5, sync := false, ab := stackAddr s.cpu.regs.s, rw := .write, db := hiByte s.cpu.regs.pc,
                        regs := { s.cpu.regs with s := s.cpu.regs.s - 1 } })
    [rowJsrPushLo, rowJsrTarget] (k1'.busReady hs.1)
    (by simp only [drives, rowJsrPushHi, c1, Cpu.holdByte, Cpu.push, Cpu.wr, Cpu.setS, Cpu.next]) rfl rfl rfl
    (show (5 : Nat) ≠ 1 by omega)
  have k2' := k1'.trans_ram k2
  rw [k1'.ram] at k2'
  obtain ⟨t3, n3, p3, q3, r3, k3, c3⟩ := State.runRows_push (s := t2) (r := rowJsrPushLo) (x := s.cpu.regs.s - 1)
    (v := loByte s.cpu.regs.pc)
    (c := { t2.cpu with t := 6, sync := false, ab := stackAddr (s.cpu.regs.s - 1), rw := .write,
                        db := loByte s.cpu.regs.pc, regs := { s.cpu.regs with s := s.cpu.regs.s - 1 - 1 } })
    [rowJsrTarget] (k2'.busReady hs.1)
    (by simp only [drives, rowJsrPushLo, c2, Cpu.push, Cpu.wr, Cpu.setS, Cpu.next]) rfl rfl rfl
    (show (6 : Nat) ≠ 1 by omega)
  have k3' := k2'.trans_ram k3
  rw [k2'.ram] at k3'
  obtain ⟨t4, h, n4, p4, q4, r4, k4, c4, w4⟩ := State.runRows_read_last_of (s := t3) (r := rowJsrTarget)
    (c := { t3.cpu with t := 1, sync := false, ab := s.cpu.regs.pc, rw := .read, deferred := .jump (loByte a) })
    [] (k3'.busReady hs.1) (by simp only [drives, rowJsrTarget, c3, c2, c1, Cpu.rdPc, Cpu.rd, Cpu.last]) rfl
    ((k3'.readable _).trans hpc) rfl
  have hq := k3'.trans k4
  have hun := hq.untouched (by rw [c4, c3, c2, c1]; rfl) (by rw [c4, c3, c2, c1]; rfl)
  refine ⟨t4.commit, h, congrArg Run.result (r1.trans (r2.trans (r3.trans r4))), ?_, ?_, { hun with },
    t4.cpu.runDeferred_frame.1, hq.commit⟩
  · have htwo : s.cpu.regs.s - 1 - 1 = s.cpu.regs.s - 2 := by bv_omega
    rw [State.commit_jump (l := loByte a) (by rw [c4]), c4, c3, htwo]
  · exact fun v hv => w4 v ((k4.peek _).symm.trans hv)

/-- RTS: two dummy reads, two pulls, and the dummy read at the address pulled. -/
theorem returnSubroutine_next {s : State} {l h : Byte} (hs : s.CanRun) (hpc : s.readable s.cpu.regs.pc = true)
    (hl : s.peek (stackAddr (s.cpu.regs.s + 1)) = some l) (hh : s.peek (stackAddr (s.cpu.regs.s + 2)) = some h)
    (ht : s.readable (joinBytes h l) = true) :
    ∃ t, returnSubroutine s = .next t ∧
      t.cpu.regs = { s.cpu.regs with s := s.cpu.regs.s + 2, pc := joinBytes h l + 1 } ∧ Untouched s t ∧ Quiet 5 s t := by
  have htwo : s.cpu.regs.s + 1 + 1 = s.cpu.regs.s + 2 := by bv_omega
  obtain ⟨t2, v2, n2, p2, q2, r2, k2, c2⟩ := runFrom_dummy_pull [rowPullDummy, rowRtsHi, rowRtsJump] hs.1 hpc
  obtain ⟨t3, v3, n3, p3, q3, r3, k3, c3, w3⟩ := State.runRows_read_of (s := t2) (r := rowPullDummy)
    (c := { t2.cpu with t := 5, sync := false, ab := stackAddr (s.cpu.regs.s + 1), rw := .read,
                        regs := { s.cpu.regs with s := s.cpu.regs.s + 2 } })
    [rowRtsHi, rowRtsJump] (k2.busReady hs.1)
    (by simp only [drives, rowPullDummy, c2, htwo, Cpu.rdStackInc, Cpu.rd, Cpu.setS, Cpu.next]) rfl
    (t2.readable_stack _) (show (5 : Nat) ≠ 1 by omega)
  have k3' := k2.trans k3
  have e3 : v3 = l := w3 l ((k2.peek _).trans hl)
  obtain ⟨t4, v4, n4, p4, q4, r4, k4, c4, w4⟩ := State.runRows_read_of (s := t3) (r := rowRtsHi)
    (c := { t3.cpu with t := 6, sync := false, lo := l, ab := stackAddr (s.cpu.regs.s + 2), rw := .read })
    [rowRtsJump] (k3'.busReady hs.1) (by simp only [drives, rowRtsHi, c3, e3, Cpu.rdStack, Cpu.rd, Cpu.next]) rfl
    (t3.readable_stack _) (show (6 : Nat) ≠ 1 by omega)
  have k4' := k3'.trans k4
  have e4 : v4 = h := w4 h ((k3'.peek _).trans hh)
  obtain ⟨t5, v5, n5, p5, q5, r5, k5, c5, -⟩ := State.runRows_read_last_of (s := t4) (r := rowRtsJump)
    (c := { t4.cpu with t := 1, sync := false, ab := joinBytes h l, rw := .read,
                        regs := { s.cpu.regs with s := s.cpu.regs.s + 2, pc := joinBytes h l + 1 } })
    [] (k4'.busReady hs.1)
    (by simp only [drives, rowRtsJump, c4, c3, e4, Cpu.rdPcInc, Cpu.setPc, Cpu.rd, Cpu.last]) rfl
    ((k4'.readable _).trans ht) rfl
  have hq := k4'.trans k5
  have hcm : t5.commit = t5 := State.commit_of_none (by rw [c5, c4, c3, c2]; exact hs.2)
  have hun := hq.untouched (by rw [c5, c4, c3, c2]) (by rw [c5, c4, c3, c2])
  rw [hcm] at hun
  exact ⟨t5, r2.trans (congrArg Run.result (r3.trans (r4.trans (r5.trans (congrArg _ hcm))))), by rw [c5], hun, hq⟩

/-- Settles O31: the rows of JSR and of RTS. -/
theorem subroutineCallAndReturn : Obligations.SubroutineCallAndReturn := by
  intro s hs hpc
  refine ⟨fun a hm => ?_, fun l h hl hh ht => ?_⟩
  · obtain ⟨t, h, hrun, hregs, hh, hun, -, hq⟩ := jumpSubroutine_next a hs hpc
    obtain ⟨h1, h2, hsame⟩ := hq.pushed2_peek hm
    exact ⟨t, h, hrun, hregs, hh, h1, h2, hsame, hun, hq.cyc⟩
  · obtain ⟨t, hrun, hregs, hun, hq⟩ := returnSubroutine_next hs hpc hl hh ht
    exact ⟨t, hrun, hregs, hq.peek, hun, hq.cyc⟩

/-! ## BRK and RTI -/

/-- BRK: the interrupt sequence, PC first moved past the padding byte. -/
theorem breakInstruction_next {s : State} (hs : s.CanRun) (hpc : s.readable s.cpu.regs.pc = true) :
    ∃ t l h, breakInstruction s = .next t ∧ s.peek 0xFFFE = some l ∧ s.peek 0xFFFF = some h ∧
      t.cpu.regs = { s.cpu.regs with s := s.cpu.regs.s - 3, pc := joinBytes h l, p := { s.cpu.regs.p with i := true } } ∧
      Untouched s t ∧ t.cpu.deferred = .none ∧
      Quiet 6 (s.withRam (pushed3 s.ram s.cpu.regs.s (hiByte (s.cpu.regs.pc + 1)) (loByte (s.cpu.regs.pc + 1))
        (s.cpu.regs.p.toByte true))) t := by
  obtain ⟨t, l, h, hrun, hl, hh, hregs, -, hdef, -, hreset, hline, hq⟩ :=
    takeInterrupt_next (k := .brk) hs.1 hpc (by decide)
  exact ⟨t, l, h, congrArg Run.result hrun, hl, hh, hregs,
    ⟨hq.vram, hq.oam, hq.palette, hq.written, hq.cart, hq.fault, hq.dma, hreset, hline⟩, hdef, hq⟩

/-- Settles O32, by the interrupt sequence. -/
theorem breakInstruction_holds : Obligations.BreakInstruction := by
  intro s hs hm hpc
  obtain ⟨t, l, h, hrun, hl, hh, hregs, hun, -, hq⟩ := breakInstruction_next hs hpc
  obtain ⟨h1, h2, h3, hsame⟩ := hq.pushed3_peek hm
  exact ⟨t, l, h, hrun, hl, hh, hregs, h1, h2, h3, hsame, hun, hq.cyc⟩

/-- Settles O33, by the return sequence. -/
theorem returnFromInterrupt : Obligations.ReturnFromInterrupt := by
  intro s v l h hs hpc hv hl hh
  obtain ⟨t, hrun, hregs, -, -, hq, hun⟩ := returnFromInterrupt_next hs.1 hpc hv hl hh
  exact ⟨t, congrArg Run.result hrun, hregs, hq.peek, hun, hq.cyc⟩

/-! ## Calls and returns -/

/-- Pulling the flags of a status byte restores them. -/
theorem Flags.ofByte_toByte (p : Flags) (b : Bool) : Flags.ofByte (p.toByte b) = p := by
  obtain ⟨h7, h6, -, -, h3, h2, h1, h0⟩ := p.toByte_bits b
  simp only [Flags.ofByte, h7, h6, h3, h2, h1, h0]

/-- Settles O34: what the call pushed is what the return pulls. -/
theorem returnsUndoTheirCalls : Obligations.ReturnsUndoTheirCalls := by
  intro s t hs hm hpc hpc'
  refine ⟨fun a hrun => ?_, fun hrun => ?_⟩
  · obtain ⟨t', h, hrun', hregs, -, -, hdef, hq⟩ := jumpSubroutine_next a hs hpc
    obtain rfl : t' = t := Host.Outcome.next.inj (hrun'.symm.trans hrun)
    obtain ⟨hhi, hlo, -⟩ := hq.pushed2_peek hm
    have h1 : s.cpu.regs.s - 2 + 1 = s.cpu.regs.s - 1 := by bv_omega
    have h2 : s.cpu.regs.s - 2 + 2 = s.cpu.regs.s := by bv_omega
    obtain ⟨u, hu, huregs, -⟩ := returnSubroutine_next (s := t') (l := loByte s.cpu.regs.pc) (h := hiByte s.cpu.regs.pc)
      ⟨hq.busReady hs.1, hdef⟩ hpc' (by rw [hregs]; simpa only [h1] using hlo) (by rw [hregs]; simpa only [h2] using hhi)
      (by rw [joinBytes_hiByte_loByte, hq.readable]; exact hpc)
    exact ⟨u, hu, by rw [huregs, hregs, joinBytes_hiByte_loByte]; simp only [h2]⟩
  · obtain ⟨t', l, h, hrun', -, -, hregs, -, hdef, hq⟩ := breakInstruction_next hs hpc
    obtain rfl : t' = t := Host.Outcome.next.inj (hrun'.symm.trans hrun)
    obtain ⟨hhi, hlo, hp, -⟩ := hq.pushed3_peek hm
    have h1 : s.cpu.regs.s - 3 + 1 = s.cpu.regs.s - 2 := by bv_omega
    have h2 : s.cpu.regs.s - 3 + 2 = s.cpu.regs.s - 1 := by bv_omega
    have h3 : s.cpu.regs.s - 3 + 3 = s.cpu.regs.s := by bv_omega
    obtain ⟨u, hu, huregs, -⟩ := returnFromInterrupt_next (s := t') (v := s.cpu.regs.p.toByte true)
      (l := loByte (s.cpu.regs.pc + 1)) (h := hiByte (s.cpu.regs.pc + 1)) (hq.busReady hs.1) hpc'
      (by rw [hregs]; simpa only [h1] using hp) (by rw [hregs]; simpa only [h2] using hlo)
      (by rw [hregs]; simpa only [h3] using hhi)
    exact ⟨u, congrArg Run.result hu,
      by rw [huregs, hregs, joinBytes_hiByte_loByte, Flags.ofByte_toByte]; simp only [h3]⟩

end Sys2Proof.Machine
end

section
/-! PROOF. The cycle the CPU is in, and the interrupt latches, tick after tick (rules R180, R490, R524, R525). -/

namespace Sys2Proof.Machine

/-! ## What a row of a cycle table does -/

/-- From `c` to `d` by the row of cycle `k`, `more` saying whether another follows it: to the first cycle or to the next;
`ir`, the RESET input and the NMI latch are kept; an action is deferred by a last row that reads only. -/
structure Cpu.Moves (k : Nat) (more : Bool) (c d : Cpu) : Prop where
  t : d.t = 1 ∨ more = true ∧ (c.t = k → d.t = k + 1)
  ir : d.ir = c.ir
  resetLine : d.resetLine = c.resetLine
  pendingNmi : d.pendingNmi = c.pendingNmi
  nmiPrev : d.nmiPrev = c.nmiPrev
  deferred : d.deferred = c.deferred ∨ d.rw = .read ∧ d.t = 1

/-- The rows of a part of a table from cycle `k` on, `after` saying whether rows of another part follow. -/
def RowsOk (after : Bool) : Nat → List Row → Prop
  | _, [] => True
  | k, r :: rows => (∀ c : Cpu, c.Moves k (!rows.isEmpty || after) (r c)) ∧ RowsOk after (k + 1) rows

theorem RowsOk.append {after : Bool} {k : Nat} {xs ys : List Row} (hx : RowsOk (!ys.isEmpty || after) k xs)
    (hy : RowsOk after (k + xs.length) ys) : RowsOk after k (xs ++ ys) := by
  induction xs generalizing k with
  | nil => exact hy
  | cons r xs ih =>
    obtain ⟨hr, hxs⟩ := hx
    refine ⟨fun c => ?_, ih hxs (by rw [List.length_cons] at hy; rwa [Nat.add_assoc, Nat.add_comm 1])⟩
    have hmore : (!(xs.append ys).isEmpty || after) = (!xs.isEmpty || (!ys.isEmpty || after)) := by
      cases xs <;> rfl
    rw [hmore]
    exact hr c

/-- A row that ends with T ← T + 1. -/
theorem Cpu.Moves.of_next {k : Nat} {c d : Cpu} (ht : d.t = c.t + 1) (hir : d.ir = c.ir) (hline : d.resetLine = c.resetLine)
    (hnmi : d.pendingNmi = c.pendingNmi) (hprev : d.nmiPrev = c.nmiPrev) (hdef : d.deferred = c.deferred) :
    c.Moves k true d :=
  ⟨.inr ⟨rfl, fun hk => hk ▸ ht⟩, hir, hline, hnmi, hprev, .inl hdef⟩

/-- A last row that defers nothing. -/
theorem Cpu.Moves.of_last {k : Nat} {more : Bool} {c d : Cpu} (ht : d.t = 1) (hir : d.ir = c.ir)
    (hline : d.resetLine = c.resetLine) (hnmi : d.pendingNmi = c.pendingNmi) (hprev : d.nmiPrev = c.nmiPrev)
    (hdef : d.deferred = c.deferred) : c.Moves k more d :=
  ⟨.inl ht, hir, hline, hnmi, hprev, .inl hdef⟩

/-- A last row that defers an action. -/
theorem Cpu.Moves.of_deferring {k : Nat} {more : Bool} {c d : Cpu} (ht : d.t = 1) (hir : d.ir = c.ir)
    (hline : d.resetLine = c.resetLine) (hnmi : d.pendingNmi = c.pendingNmi) (hprev : d.nmiPrev = c.nmiPrev)
    (hrw : d.rw = .read) : c.Moves k more d :=
  ⟨.inl ht, hir, hline, hnmi, hprev, .inr ⟨hrw, ht⟩⟩

/-- A final access, whatever it finds of the address in the CPU. -/
def Access.Ok (more : Bool) (access : Access) : Prop :=
  ∀ (k : Nat) (c : Cpu) (ptr hi : Byte) (a : Word), c.Moves k more (({ c with ptr := ptr, hi := hi } : Cpu).accessAt access a)

theorem accessUse_ok (op : ReadOp) (more : Bool) : (accessUse op).Ok more :=
  fun _ _ _ _ _ => .of_deferring rfl rfl rfl rfl rfl rfl

theorem accessStore_ok (r : StoreReg) (more : Bool) : (accessStore r).Ok more :=
  fun _ _ _ _ _ => .of_last rfl rfl rfl rfl rfl rfl

theorem accessModify_ok : Access.Ok true accessModify :=
  fun _ _ _ _ _ => .of_next rfl rfl rfl rfl rfl rfl

/-! ## The rows of the modes and of the shapes -/

theorem rowIndexed1_moves {idx : Regs → Byte} {elide : Bool} {access : Access} (h : elide = true → access.Ok true)
    (k : Nat) (c : Cpu) : c.Moves k true (rowIndexed1 idx elide access c) := by
  unfold rowIndexed1
  dsimp only
  split
  · next hc => exact h (Bool.and_eq_true_iff.1 hc).1 k c c.ptr c.db _
  · exact .of_next rfl rfl rfl rfl rfl rfl

theorem Operand.rows_ok {after elide : Bool} {access : Access} {o : Operand} (k : Nat)
    (hlast : access.Ok after) (helide : elide = true → access.Ok true) : RowsOk after k (o.rows elide access) := by
  have hplain : ∀ k (c : Cpu) a, c.Moves k after (c.accessAt access a) := fun k c a => hlast k c c.ptr c.hi a
  have habs : ∀ k (c : Cpu), c.Moves k after (rowAbs access c) := fun k c => hlast k c c.ptr c.db _
  have hidx : ∀ idx k (c : Cpu), c.Moves k true (rowIndexed1 idx elide access c) := fun idx => rowIndexed1_moves helide
  have hnext : ∀ r ∈ [rowZpIndexed1, rowIzxDummy, rowIzxLo, rowPtrHi, rowIzyLo], ∀ k (c : Cpu), c.Moves k true (r c) := by
    intro r hr k c
    fin_cases hr <;> exact .of_next rfl rfl rfl rfl rfl rfl
  cases o with
  | imm b => trivial
  | zp b => exact ⟨fun c => hplain _ c _, trivial⟩
  | zpx b | zpy b => exact ⟨fun c => hnext _ (by simp) _ c, fun c => hplain _ c _, trivial⟩
  | abs a => exact ⟨fun c => habs _ c, trivial⟩
  | abx a | aby a => exact ⟨fun c => hidx _ _ c, fun c => hplain _ c _, trivial⟩
  | izx b =>
    exact ⟨fun c => hnext _ (by simp) _ c, fun c => hnext _ (by simp) _ c, fun c => hnext _ (by simp) _ c,
      fun c => habs _ c, trivial⟩
  | izy b =>
    exact ⟨fun c => hnext _ (by simp) _ c, fun c => hnext _ (by simp) _ c, fun c => hidx _ _ c, fun c => hplain _ c _,
      trivial⟩

theorem rowFetch1_moves (k : Nat) (c : Cpu) : c.Moves k true (rowFetch1 c) := .of_next rfl rfl rfl rfl rfl rfl

theorem rowFetch2_moves (k : Nat) (c : Cpu) : c.Moves k true (rowFetch2 c) := .of_next rfl rfl rfl rfl rfl rfl

theorem Operand.fetchRows_ok (o : Operand) (k : Nat) : RowsOk true k o.fetchRows := by
  unfold Operand.fetchRows
  split
  · exact ⟨fun c => rowFetch1_moves _ c, trivial⟩
  · exact ⟨fun c => rowFetch1_moves _ c, fun c => rowFetch2_moves _ c, trivial⟩

theorem Cpu.pushOrRead_moves (k : Nat) (c : Cpu) (v : Byte) : c.Moves k true (c.pushOrRead v).next := by
  unfold Cpu.pushOrRead
  split <;> exact .of_next rfl rfl rfl rfl rfl rfl

theorem interruptRows_ok : RowsOk false 2 interruptRows := by
  refine ⟨fun c => ?_, fun c => Cpu.pushOrRead_moves _ c _, fun c => Cpu.pushOrRead_moves _ c _, fun c => Cpu.pushOrRead_moves _ c _,
    fun c => .of_next rfl rfl rfl rfl rfl rfl, fun c => .of_deferring rfl rfl rfl rfl rfl rfl, trivial⟩
  unfold rowIntFetch
  split <;> exact .of_next rfl rfl rfl rfl rfl rfl

theorem branchRows_ok (k : Cond) : RowsOk false 2 [rowBranchFetch k, rowBranchTaken, rowBranchCross] := by
  refine ⟨fun c => ?_, fun c => ?_, fun c => .of_last rfl rfl rfl rfl rfl rfl, trivial⟩
  · have ht : (rowBranchFetch k c).t = if k.holds c.regs.p then 3 else 1 := rfl
    refine ⟨?_, rfl, rfl, rfl, rfl, .inl rfl⟩
    rw [ht]
    split
    · exact .inr ⟨rfl, fun _ => rfl⟩
    · exact .inl rfl
  · unfold rowBranchTaken
    dsimp only
    split
    · exact .of_last rfl rfl rfl rfl rfl rfl
    · exact .of_next rfl rfl rfl rfl rfl rfl

/-- A store or a read-modify-write has an address. -/
def Form.HasAddress : Form → Prop
  | .store _ (.imm _) | .rmw _ (.imm _) => False
  | _ => True

theorem formOf_hasAddress (i : Instr) : (formOf i).HasAddress := by cases i <;> trivial

/-- The rows of every shape. -/
theorem Form.table_ok {f : Form} (h : f.HasAddress) : RowsOk false 2 f.table := by
  cases f with
  | readUse op o =>
    have hrows := o.fetchRows_ok 2
    have haccess := Operand.rows_ok (o := o) (elide := true) (2 + o.fetchRows.length)
      (accessUse_ok op false) fun _ => accessUse_ok op true
    cases o with
    | imm b => exact ⟨fun c => .of_deferring rfl rfl rfl rfl rfl rfl, trivial⟩
    | _ => exact RowsOk.append hrows haccess
  | store r o =>
    have hrows := o.fetchRows_ok 2
    have haccess := Operand.rows_ok (o := o) (elide := false) (2 + o.fetchRows.length) (accessStore_ok r false) nofun
    cases o with
    | imm b => cases h
    | _ => exact RowsOk.append hrows haccess
  | rmw op o =>
    have hrows := o.fetchRows_ok 2
    have haccess : RowsOk false (2 + o.fetchRows.length) (rmwRows op o) :=
      RowsOk.append (Operand.rows_ok (o := o) (elide := false) _ accessModify_ok nofun)
        ⟨fun c => .of_next rfl rfl rfl rfl rfl rfl, fun c => .of_last rfl rfl rfl rfl rfl rfl, trivial⟩
    cases o with
    | imm b => cases h
    | _ => exact RowsOk.append hrows haccess
  | rmwAcc op => exact ⟨fun c => .of_last rfl rfl rfl rfl rfl rfl, trivial⟩
  | single op => exact ⟨fun c => .of_last rfl rfl rfl rfl rfl rfl, trivial⟩
  | branch k off => exact branchRows_ok k
  | pha | php =>
    exact ⟨fun c => .of_next rfl rfl rfl rfl rfl rfl, fun c => .of_last rfl rfl rfl rfl rfl rfl, trivial⟩
  | pla | plp =>
    exact ⟨fun c => .of_next rfl rfl rfl rfl rfl rfl, fun c => .of_next rfl rfl rfl rfl rfl rfl,
      fun c => .of_deferring rfl rfl rfl rfl rfl rfl, trivial⟩
  | jmp a => exact ⟨fun c => rowFetch1_moves _ c, fun c => .of_deferring rfl rfl rfl rfl rfl rfl, trivial⟩
  | jmpInd a =>
    exact ⟨fun c => rowFetch1_moves _ c, fun c => rowFetch2_moves _ c, fun c => .of_next rfl rfl rfl rfl rfl rfl,
      fun c => .of_deferring rfl rfl rfl rfl rfl rfl, trivial⟩
  | jsr a =>
    exact ⟨fun c => rowFetch1_moves _ c, fun c => .of_next rfl rfl rfl rfl rfl rfl,
      fun c => .of_next rfl rfl rfl rfl rfl rfl, fun c => .of_next rfl rfl rfl rfl rfl rfl,
      fun c => .of_deferring rfl rfl rfl rfl rfl rfl, trivial⟩
  | rts =>
    exact ⟨fun c => .of_next rfl rfl rfl rfl rfl rfl, fun c => .of_next rfl rfl rfl rfl rfl rfl,
      fun c => .of_next rfl rfl rfl rfl rfl rfl, fun c => .of_next rfl rfl rfl rfl rfl rfl,
      fun c => .of_last rfl rfl rfl rfl rfl rfl, trivial⟩
  | brk => exact interruptRows_ok
  | rti =>
    exact ⟨fun c => .of_next rfl rfl rfl rfl rfl rfl, fun c => .of_next rfl rfl rfl rfl rfl rfl,
      fun c => .of_next rfl rfl rfl rfl rfl rfl, fun c => .of_next rfl rfl rfl rfl rfl rfl,
      fun c => .of_deferring rfl rfl rfl rfl rfl rfl, trivial⟩

theorem opcodeTable_ok {op : Byte} {rows : List Row} (h : opcodeTable op = some rows) : RowsOk false 2 rows := by
  obtain ⟨i, -, rfl⟩ := Option.map_eq_some_iff.1 h
  exact Form.table_ok (formOf_hasAddress i)

/-- A row of a table. -/
theorem RowsOk.get {k n : Nat} {rows : List Row} {r : Row} (h : RowsOk false k rows) (hr : rows[n]? = some r) (c : Cpu) :
    c.Moves (k + n) (decide (n + 1 < rows.length)) (r c) := by
  induction rows generalizing k n with
  | nil => cases hr
  | cons r' rows ih =>
    obtain ⟨hhead, htail⟩ := h
    cases n with
    | zero =>
      obtain rfl : r' = r := Option.some.inj hr
      have hmore : decide (0 + 1 < (r' :: rows).length) = (!rows.isEmpty || false) := by cases rows <;> simp
      rw [hmore]
      exact hhead c
    | succ n =>
      have hmore : decide (n + 1 + 1 < (r' :: rows).length) = decide (n + 1 < rows.length) := by simp
      rw [hmore]
      rw [← Nat.add_assoc, Nat.add_right_comm]
      exact ih htail hr

/-! ## A CPU step -/

theorem Cpu.runRow_eq_ok {c d : Cpu} (h : c.runRow = .ok d) :
    ∃ rows r, opcodeTable c.ir = some rows ∧ rows[c.t - 2]? = some r ∧ d = r c := by
  unfold Cpu.runRow at h
  split at h
  · cases h
  · next rows hrows =>
    split at h
    · cases h
    · next r hr => cases h; exact ⟨rows, r, hrows, hr, rfl⟩

/-- A row of the table runs: what it keeps, and the cycle it moves to. -/
theorem Cpu.runRow_moves {c d : Cpu} (h : c.runRow = .ok d) :
    d.nmiPrev = c.nmiPrev ∧ d.pendingNmi = c.pendingNmi ∧ (2 ≤ c.t → d.CycleOk) := by
  obtain ⟨rows, r, hrows, hr, rfl⟩ := Cpu.runRow_eq_ok h
  have hmoves := (opcodeTable_ok hrows).get hr c
  refine ⟨hmoves.nmiPrev, hmoves.pendingNmi, fun ht => ?_⟩
  obtain h1 | ⟨hmore, hnext⟩ := hmoves.t
  · exact .inl h1
  · have hnext := hnext (by omega)
    refine .inr (.inr ⟨rows, by rw [hmoves.ir]; exact hrows, by omega, ?_⟩)
    rw [decide_eq_true_eq] at hmore
    omega

/-- The T2 step runs a row for the opcode it latches. -/
theorem Cpu.stepT2_eq (c : Cpu) : ∃ op k, c.stepT2 = ({ c with ir := op, intKind := k } : Cpu).runRow := by
  unfold Cpu.stepT2
  split
  case h_4 => exact ⟨_, _, rfl⟩
  all_goals exact ⟨0, c.intKind, rfl⟩

/-- The poll takes a pending NMI, unless a reset is pending. -/
theorem Cpu.stepT1_latch (c : Cpu) :
    c.stepT1.t = 2 ∧ c.stepT1.nmiPrev = c.nmiPrev ∧ c.stepT1.pendingNmi = (c.pendingNmi && c.pendingReset) := by
  have hrun : c.runDeferred.nmiPrev = c.nmiPrev ∧ c.runDeferred.pendingNmi = c.pendingNmi ∧
      c.runDeferred.pendingReset = c.pendingReset := by
    unfold Cpu.runDeferred
    split <;> exact ⟨rfl, rfl, rfl⟩
  have hpoll : ∀ d : Cpu, d.poll.nmiPrev = d.nmiPrev ∧ d.poll.pendingNmi = (d.pendingNmi && d.pendingReset) := by
    intro d
    unfold Cpu.poll Cpu.pollKind
    cases d.pendingReset <;> cases d.pendingNmi <;> cases d.irqLine <;> cases d.regs.p.i <;>
      simp
  have hfetch : ∀ d : Cpu, d.fetchOpcode.nmiPrev = d.nmiPrev ∧ d.fetchOpcode.pendingNmi = d.pendingNmi := by
    intro d
    unfold Cpu.fetchOpcode
    split <;> exact ⟨rfl, rfl⟩
  obtain ⟨hprev, hnmi, hreset⟩ := hrun
  unfold Cpu.stepT1
  refine ⟨rfl, ?_, ?_⟩
  · rw [(hfetch _).1, (hpoll _).1, hprev]
  · rw [(hfetch _).2, (hpoll _).2, hnmi, hreset]

/-- The CPU as its step finds it: RESET sampled, `sync` dropped. -/
def Cpu.sampled (c : Cpu) : Cpu := { (if c.resetLine then c.resetSample else c) with sync := false }

theorem Cpu.sampled_reset {c : Cpu} (h : c.resetLine = true) : c.sampled = { c.resetSample with sync := false } := by
  unfold Cpu.sampled
  rw [if_pos h]

theorem Cpu.sampled_running {c : Cpu} (h : c.resetLine = false) : c.sampled = { c with sync := false } := by
  unfold Cpu.sampled
  rw [if_neg (by rw [h]; exact Bool.false_ne_true)]

theorem Cpu.step_eq (c : Cpu) : c.step =
    if c.sampled.t = 1 then .ok c.sampled.stepT1 else if c.sampled.t = 2 then c.sampled.stepT2 else c.sampled.runRow := rfl

/-- A CPU step keeps the NMI latch, but for what the poll takes. -/
theorem Cpu.step_latch {c d : Cpu} (h : c.step = .ok d) :
    d.nmiPrev = c.nmiPrev ∧
      d.pendingNmi = (c.pendingNmi && !(!c.resetLine && decide (c.t = 1) && !c.pendingReset)) := by
  obtain ⟨-, hprev, hnmi⟩ := c.sampled.stepT1_latch
  rw [Cpu.step_eq] at h
  cases hl : c.resetLine with
  | true =>
    have hs := Cpu.sampled_reset hl
    rw [if_pos (by rw [hs]; rfl)] at h
    cases h
    rw [hprev, hnmi, hs]
    exact ⟨rfl, rfl⟩
  | false =>
    have hs := Cpu.sampled_running hl
    have ht : c.sampled.t = c.t := by rw [hs]
    rw [ht] at h
    split at h
    · next h1 =>
      cases h
      rw [hprev, hnmi, hs]
      simp [h1]
    · next h1 =>
      have hrow : ∃ op k, ({ c.sampled with ir := op, intKind := k } : Cpu).runRow = .ok d := by
        split at h
        · obtain ⟨op, k, he⟩ := c.sampled.stepT2_eq
          exact ⟨op, k, he ▸ h⟩
        · exact ⟨c.sampled.ir, c.sampled.intKind, h⟩
      obtain ⟨op, k, hrow⟩ := hrow
      obtain ⟨hprev, hnmi, -⟩ := Cpu.runRow_moves hrow
      rw [hprev, hnmi, hs]
      simp [h1]

/-- Past T2 the cycle sampled is a row of the table. -/
theorem Cpu.CycleOk.sampled {c : Cpu} (hc : c.CycleOk) (h1 : c.sampled.t ≠ 1) (h2 : c.sampled.t ≠ 2) :
    ∃ rows, opcodeTable c.sampled.ir = some rows ∧ 2 < c.sampled.t ∧ c.sampled.t - 2 < rows.length := by
  cases hl : c.resetLine with
  | true => exact absurd (by rw [Cpu.sampled_reset hl]; rfl) h1
  | false =>
    rw [Cpu.sampled_running hl] at h1 h2 ⊢
    obtain h | h | h := hc
    exacts [absurd h h1, absurd h h2, h]

/-- A CPU step moves to a cycle that exists. -/
theorem Cpu.step_cycleOk {c d : Cpu} (h : c.step = .ok d) (hc : c.CycleOk) : d.CycleOk := by
  rw [Cpu.step_eq] at h
  split at h
  · cases h; exact .inr (.inl c.sampled.stepT1_latch.1)
  · next h1 =>
    split at h
    · next h2 =>
      obtain ⟨op, k, he⟩ := c.sampled.stepT2_eq
      rw [he] at h
      exact (Cpu.runRow_moves h).2.2 (show 2 ≤ c.sampled.t by omega)
    · next h2 =>
      obtain ⟨-, -, ht, -⟩ := hc.sampled h1 h2
      exact (Cpu.runRow_moves h).2.2 (by omega)

theorem Form.table_ne_nil (f : Form) : f.table ≠ [] := by
  have hfetch : ∀ (o : Operand) (rows : List Row), o.fetchRows ++ rows ≠ [] := by
    intro o rows
    unfold Operand.fetchRows
    split <;> exact nofun
  cases f with
  | readUse op o => cases o <;> exact nofun
  | store r o => exact hfetch _ _
  | rmw op o => exact hfetch _ _
  | _ => exact nofun

/-- A row that exists runs. -/
theorem Cpu.runRow_error {c : Cpu} {op : Byte} {n : Nat} (h : c.runRow = .error (.noSuchCycle op n)) :
    ∃ rows, opcodeTable c.ir = some rows ∧ rows.length ≤ c.t - 2 := by
  unfold Cpu.runRow at h
  split at h
  · cases h
  · next rows hrows =>
    split at h
    · next hr => exact ⟨rows, hrows, List.getElem?_eq_none_iff.1 hr⟩
    · cases h

/-- In a cycle that exists, a CPU step does not raise the model's own fault. -/
theorem Cpu.step_error {c : Cpu} (hc : c.CycleOk) (op : Byte) (n : Nat) : c.step ≠ .error (.noSuchCycle op n) := by
  intro h
  rw [Cpu.step_eq] at h
  split at h
  · cases h
  · next h1 =>
    split at h
    · next h2 =>
      obtain ⟨op, k, he⟩ := c.sampled.stepT2_eq
      rw [he] at h
      obtain ⟨rows, hrows, hlen⟩ := Cpu.runRow_error h
      obtain ⟨i, -, rfl⟩ := Option.map_eq_some_iff.1 hrows
      have hlen : (formOf i).table.length ≤ c.sampled.t - 2 := hlen
      exact (formOf i).table_ne_nil (List.eq_nil_of_length_eq_zero (by omega))
    · next h2 =>
      obtain ⟨rows, hrows, ht, hlen⟩ := hc.sampled h1 h2
      obtain ⟨rows', hrows', hlen'⟩ := Cpu.runRow_error h
      cases hrows.symm.trans hrows'
      omega

/-! ## A bus cycle: what it keeps, and its faults -/

/-- A run that meets `P` when it completes, and whose fault is not the model's own. -/
def Run.Meets (P : State → Prop) : Run → Prop
  | .ok t => P t
  | .error f => ∀ op n, f ≠ .noSuchCycle op n

theorem Run.Meets.andThen {P Q : State → Prop} {r : Run} {f : State → Run} (h : r.Meets P)
    (hf : ∀ t, P t → (f t).Meets Q) : (andThen r f).Meets Q := by
  cases r with
  | error e => exact h
  | ok t => exact hf t h

/-- The CPU and the count of cycles as before; the DMA engine too, where `b` holds. -/
structure SameDrive (b : Prop) (s t : State) : Prop where
  cpu : t.cpu = s.cpu
  cyc : t.cyc = s.cyc
  dma : b → t.dma = s.dma

theorem SameDrive.refl (b : Prop) (s : State) : SameDrive b s s := ⟨rfl, rfl, fun _ => rfl⟩

theorem SameDrive.trans {b : Prop} {s t u : State} (h : SameDrive b s t) (k : SameDrive b t u) : SameDrive b s u :=
  ⟨k.cpu.trans h.cpu, k.cyc.trans h.cyc, fun hb => (k.dma hb).trans (h.dma hb)⟩

theorem State.busWrite_meets (s : State) (a : Word) (v : Byte) :
    Run.Meets (SameDrive (cpuTarget a ≠ .oamDma) s) (s.busWrite a v) := by
  unfold State.busWrite
  cases hT : cpuTarget a
  case reserved | hole | prgRom => exact nofun
  case oamDma => exact ⟨rfl, rfl, fun h => absurd rfl h⟩
  case prgRam =>
    dsimp only
    split
    · exact nofun
    · exact ⟨rfl, rfl, fun _ => rfl⟩
  all_goals exact ⟨rfl, rfl, fun _ => rfl⟩

theorem State.driveBus_meets (s : State) :
    Run.Meets (SameDrive (s.cpu.rw = .write → cpuTarget s.cpu.ab ≠ .oamDma) s) s.driveBus := by
  unfold State.driveBus
  split
  · next hw =>
    have h := s.busWrite_meets s.cpu.ab s.cpu.db
    revert h
    cases s.busWrite s.cpu.ab s.cpu.db with
    | error f => exact id
    | ok t => exact fun h => ⟨h.cpu, h.cyc, fun hb => h.dma (hb hw)⟩
  · split <;> exact ⟨rfl, rfl, fun _ => rfl⟩

theorem State.servePpuRead_meets (b : Prop) (s : State) : Run.Meets (SameDrive b s) s.servePpuRead := by
  unfold State.servePpuRead State.ppuBusRead
  split
  · split
    · next f hf =>
      split at hf
      · split at hf
        · cases hf
        · cases hf; exact nofun
      · cases hf
    · exact ⟨rfl, rfl, fun _ => rfl⟩
  · exact .refl b s

theorem State.servePpuWrite_meets (b : Prop) (s : State) : Run.Meets (SameDrive b s) s.servePpuWrite := by
  unfold State.servePpuWrite
  split
  · split
    · unfold State.lostPpuWrite
      split <;> exact ⟨rfl, rfl, fun _ => rfl⟩
    · unfold State.ppuBusWrite
      split
      · exact nofun
      · exact ⟨rfl, rfl, fun _ => rfl⟩
  · exact .refl b s

theorem State.ppuStep_meets (b : Prop) (s : State) : Run.Meets (SameDrive b s) s.ppuStep := by
  unfold State.ppuStep
  obtain ⟨q, hq, -⟩ | ⟨-, -, hq⟩ := s.ppu.step_cases
  · rw [hq]
    have hdot : SameDrive b s { s with ppu := q } := ⟨rfl, rfl, fun _ => rfl⟩
    refine (State.servePpuRead_meets b { s with ppu := q }).andThen fun t ht => ?_
    have h := t.servePpuWrite_meets b
    revert h
    cases t.servePpuWrite with
    | error f => exact id
    | ok u => exact (hdot.trans ht).trans
  · rw [hq]
    exact nofun

theorem Run.Meets.imp {P Q : State → Prop} {r : Run} (h : r.Meets P) (hpq : ∀ t, P t → Q t) : r.Meets Q := by
  cases r with
  | error f => exact h
  | ok t => exact hpq t h

theorem State.ppuSteps_meets (b : Prop) (s : State) : Run.Meets (SameDrive b s) s.ppuSteps :=
  (((s.ppuStep_meets b).andThen fun t ht => (t.ppuStep_meets b).imp fun _ => ht.trans)).andThen
    fun t ht => (t.ppuStep_meets b).imp fun _ => ht.trans

/-- The end of a bus cycle's read: only the byte on `db`, and the engine's latch, are new. -/
structure SameRead (s t : State) : Prop where
  cpu : t.cpu = { s.cpu with db := t.cpu.db }
  cyc : t.cyc = s.cyc
  dma : t.dma = { s.dma with latch := t.dma.latch }
  ppu : t.ppu = s.ppu

theorem State.completeRead_meets (m : Master) (s : State) : Run.Meets (SameRead s) (s.completeRead m) := by
  have deliver : ∀ t : State, t.cpu = s.cpu → t.cyc = s.cyc → t.dma = s.dma → t.ppu = s.ppu → ∀ v,
      SameRead s (t.deliver m v) := by
    intro t hcpu hcyc hdma hppu v
    refine ⟨?_, hcyc, ?_, hppu⟩
    · show ({ t.cpu with db := v } : Cpu) = { s.cpu with db := v }
      rw [hcpu]
    · unfold State.deliver
      cases m <;> rw [hdma] <;> rfl
  unfold State.completeRead
  split
  · exact ⟨rfl, rfl, rfl, rfl⟩
  · split
    · next f hf =>
      unfold State.busRead at hf
      cases hT : cpuTarget s.cpu.ab <;> rw [hT] at hf
      case reserved | hole => cases hf; exact nofun
      case prgRam =>
        dsimp only at hf
        split at hf
        · cases hf; exact nofun
        · cases hf
      all_goals cases hf
    · next v t ht =>
      unfold State.busRead at ht
      cases hT : cpuTarget s.cpu.ab <;> rw [hT] at ht
      case reserved | hole => cases ht
      case prgRam =>
        dsimp only at ht
        split at ht
        · cases ht
        · cases ht; exact deliver s rfl rfl rfl rfl _
      all_goals
        cases ht
        show SameRead s (State.deliver _ m _)
        refine deliver _ ?_ ?_ ?_ ?_ _ <;> rfl

/-- What a bus cycle leaves of the state that drove it. -/
structure Cycled (s t : State) : Prop where
  cpu : t.cpu = { s.cpu with
    db := t.cpu.db, pendingNmi := s.cpu.pendingNmi || (t.ppu.nmiOut && !s.cpu.nmiPrev), nmiPrev := t.ppu.nmiOut,
    irqLine := t.apu.irqOut }
  cyc : t.cyc = s.cyc + 1
  dma : (s.cpu.rw = .write → cpuTarget s.cpu.ab ≠ .oamDma) → t.dma = { s.dma with latch := t.dma.latch }

theorem State.busCycle_meets (m : Master) (s : State) : Run.Meets (Cycled s) (s.busCycle m) := by
  refine s.driveBus_meets.andThen fun s1 h1 => ?_
  refine (s1.ppuSteps_meets (s.cpu.rw = .write → cpuTarget s.cpu.ab ≠ .oamDma)).andThen fun s2 h2 => ?_
  refine (s2.latchNmi.completeRead_meets m).andThen fun s3 h3 => ?_
  obtain ⟨hcpu, hcyc, hdma⟩ := h1.trans h2
  refine ⟨?_, ?_, fun hb => ?_⟩
  · have hlatch : s2.latchNmi.cpu = { s.cpu with
        pendingNmi := s.cpu.pendingNmi || (s2.ppu.nmiOut && !s.cpu.nmiPrev), nmiPrev := s2.ppu.nmiOut } := by
      unfold State.latchNmi
      rw [hcpu]
    have hppu : s3.ppu = s2.ppu := h3.ppu
    show ({ s3.cpu with irqLine := s3.apu.step.irqOut } : Cpu) = { s.cpu with
      db := s3.cpu.db, pendingNmi := s.cpu.pendingNmi || (s3.ppu.nmiOut && !s.cpu.nmiPrev), nmiPrev := s3.ppu.nmiOut,
      irqLine := s3.apu.step.irqOut }
    rw [h3.cpu, hlatch, hppu]
  · exact congrArg (· + 1) (h3.cyc.trans hcyc)
  · have h := h3.dma
    rw [show s2.latchNmi.dma = s.dma from hdma hb] at h
    exact h

theorem State.busCycle_cycled {s t : State} {m : Master} (h : s.busCycle m = .ok t) : Cycled s t := by
  have hm := s.busCycle_meets m
  rwa [h] at hm

/-- A DMA cycle drives the bus, and keeps the rest of the CPU. -/
theorem Dma.drive_eq (d : Dma) (c : Cpu) : d.drive c =
    { c with ab := (d.drive c).ab, db := (d.drive c).db, rw := (d.drive c).rw } := by
  unfold Dma.drive
  dsimp only
  split
  · rfl
  · split <;> rfl

/-! ## The tick -/

theorem State.tick_dma {s : State} (hf : s.fault = none) (hd : s.dma.active = true) : s.tick = s.dmaTick := by
  unfold State.tick
  rw [hf, hd]
  rfl

theorem State.tick_cpu {s : State} {c : Cpu} (hf : s.fault = none) (hd : s.dma.active = false) (hc : s.cpu.step = .ok c) :
    s.tick = (s.withCpu c).busCycle .cpu := by
  unfold State.tick
  rw [hf, hd, hc]
  rfl

theorem State.tick_cpu_error {s : State} {f : Fault} (hf : s.fault = none) (hd : s.dma.active = false)
    (hc : s.cpu.step = .error f) : s.tick = .error f := by
  unfold State.tick
  rw [hf, hd, hc]
  rfl

/-- Settles O38: a bus cycle latches both, and only the poll takes the NMI. -/
theorem tickLatchesTheInterrupts : Obligations.TickLatchesTheInterrupts := by
  intro s t h taken
  obtain ⟨hf, -⟩ := State.tick_cases h
  have latched : ∀ (u : State) (m : Master), u.busCycle m = .ok t → u.cyc = s.cyc → u.cpu.nmiPrev = s.cpu.nmiPrev →
      u.cpu.pendingNmi = (s.cpu.pendingNmi && !taken) →
      t.cyc = s.cyc + 1 ∧ t.cpu.irqLine = t.apu.frameIrq ∧
        t.cpu.nmiPrev = (t.ppu.ctrl.generateVblankNmi && t.ppu.vblankStarted) ∧
        t.cpu.pendingNmi = (s.cpu.pendingNmi && !taken || t.cpu.nmiPrev && !s.cpu.nmiPrev) := by
    intro u m hu hcyc hprev hnmi
    have hc := State.busCycle_cycled hu
    refine ⟨hcyc ▸ hc.cyc, by rw [hc.cpu]; rfl, by rw [hc.cpu]; rfl, ?_⟩
    rw [hc.cpu]
    show (u.cpu.pendingNmi || (t.ppu.nmiOut && !u.cpu.nmiPrev)) = _
    rw [hprev, hnmi]
  cases hd : s.dma.active with
  | true =>
    have htaken : taken = false := by simp [taken, hd]
    rw [State.tick_dma hf hd] at h
    refine latched _ _ h rfl ?_ ?_
    · show (s.dma.drive s.cpu).nmiPrev = _
      rw [Dma.drive_eq]
    · show (s.dma.drive s.cpu).pendingNmi = _
      rw [Dma.drive_eq, htaken, Bool.not_false, Bool.and_true]
  | false =>
    have htaken : taken = (!s.cpu.resetLine && decide (s.cpu.t = 1) && !s.cpu.pendingReset) := by simp [taken, hd]
    cases hc : s.cpu.step with
    | error f =>
      rw [State.tick_cpu_error hf hd hc] at h
      cases h
    | ok c =>
      rw [State.tick_cpu hf hd hc] at h
      obtain ⟨hprev, hnmi⟩ := Cpu.step_latch hc
      exact latched _ _ h rfl hprev (htaken ▸ hnmi)

theorem Cpu.CycleOk.congr {c d : Cpu} (h : c.CycleOk) (ht : d.t = c.t) (hir : d.ir = c.ir) : d.CycleOk := by
  unfold Cpu.CycleOk
  rw [ht, hir]
  exact h

/-- A bus cycle keeps the cycle the CPU is in. -/
theorem State.busCycle_cycleOk {s t : State} {m : Master} (h : s.busCycle m = .ok t) (hc : s.cpu.CycleOk) :
    t.cpu.CycleOk := by
  have hcpu := (State.busCycle_cycled h).cpu
  exact hc.congr (by rw [hcpu]) (by rw [hcpu])

/-- A bus cycle does not raise the model's own fault. -/
theorem State.busCycle_error (s : State) (m : Master) (op : Byte) (n : Nat) : s.busCycle m ≠ .error (.noSuchCycle op n) := by
  intro h
  have hm := s.busCycle_meets m
  rw [h] at hm
  exact hm op n rfl

/-- Settles O8: every row moves to a cycle of its table, and a bus cycle moves nothing. -/
theorem everyCycleExists : Obligations.EveryCycleExists := by
  intro s hc hf
  cases hd : s.dma.active with
  | true =>
    rw [State.tick_dma hf hd]
    have hdrive : s.dmaStep.cpu.CycleOk := by
      show (s.dma.drive s.cpu).CycleOk
      rw [Dma.drive_eq]
      exact hc
    exact ⟨fun t ht => State.busCycle_cycleOk ht hdrive, s.dmaStep.busCycle_error .dma⟩
  | false =>
    cases hstep : s.cpu.step with
    | error f =>
      rw [State.tick_cpu_error hf hd hstep]
      refine ⟨fun t ht => (by cases ht), fun op n he => ?_⟩
      exact Cpu.step_error hc op n (hstep.trans (congrArg Except.error (Except.error.inj he)))
    | ok c =>
      rw [State.tick_cpu hf hd hstep]
      exact ⟨fun t ht => State.busCycle_cycleOk ht (Cpu.step_cycleOk hstep hc), (s.withCpu c).busCycle_error .cpu⟩

end Sys2Proof.Machine
end

section
/-! PROOF. An instruction step is its system ticks (rules R180, R201, R490, R495). -/

namespace Sys2Proof.Machine

/-! ## Ticks, one after another -/

theorem State.ticks_add (m n : Nat) (s : State) : State.ticks (m + n) s = andThen (State.ticks m s) (State.ticks n) := by
  induction m generalizing s with
  | zero => rw [Nat.zero_add]; rfl
  | succ m ih =>
    rw [Nat.add_right_comm]
    show andThen s.tick (State.ticks (m + n)) = andThen (andThen s.tick (State.ticks m)) (State.ticks n)
    cases s.tick with
    | error f => rfl
    | ok t => exact ih t

/-- Not the next boundary. -/
def State.Open (s : State) : Prop := s.cpu.t ≠ 1 ∨ s.dma.active = true

/-- The ticks from `s` on answer `r`, at no boundary before that. -/
def State.Reaches (s : State) : Run → Prop
  | .ok t => ∃ n, 0 < n ∧ State.ticks n s = .ok t ∧ ∀ m v, 0 < m → m < n → State.ticks m s = .ok v → v.Open
  | .error f => ∃ n, State.ticks n s = .error f

theorem State.reaches_tick (s : State) : s.Reaches s.tick := by
  have hone : State.ticks 1 s = s.tick := by
    show andThen s.tick (fun t => .ok t) = _
    cases s.tick <;> rfl
  cases ht : s.tick with
  | error f => exact ⟨1, hone.trans ht⟩
  | ok t => exact ⟨1, Nat.one_pos, hone.trans ht, fun m v h0 h1 => by omega⟩

theorem State.Reaches.trans {s t : State} {r : Run} (h : s.Reaches (.ok t)) (ht : t.Open) (hr : t.Reaches r) :
    s.Reaches r := by
  obtain ⟨m, hm, hst, hopen⟩ := h
  have hadd : ∀ n, State.ticks (m + n) s = State.ticks n t := fun n => by rw [State.ticks_add, hst]; rfl
  cases r with
  | error f =>
    obtain ⟨n, hn⟩ := hr
    exact ⟨m + n, (hadd n).trans hn⟩
  | ok u =>
    obtain ⟨n, hn, htu, hopen'⟩ := hr
    refine ⟨m + n, by omega, (hadd n).trans htu, fun k v h0 hk hv => ?_⟩
    obtain hlt | rfl | hgt := Nat.lt_trichotomy k m
    · exact hopen k v h0 hlt hv
    · cases hst.symm.trans hv
      exact ht
    · obtain ⟨j, rfl⟩ := Nat.exists_eq_add_of_lt hgt
      rw [Nat.add_assoc, hadd] at hv
      exact hopen' (j + 1) v (by omega) (by omega) hv

/-! ## A DMA, tick by tick -/

/-- The CPU as a DMA leaves it: frozen, but for the bus and the interrupt latches. -/
def Cpu.Stalled (c d : Cpu) : Prop :=
  d = { c with ab := d.ab, db := d.db, rw := d.rw, pendingNmi := d.pendingNmi, nmiPrev := d.nmiPrev, irqLine := d.irqLine }

theorem Cpu.Stalled.refl (c : Cpu) : c.Stalled c := rfl

theorem Cpu.Stalled.trans {c d e : Cpu} (h : c.Stalled d) (k : d.Stalled e) : c.Stalled e := by
  unfold Cpu.Stalled at *
  rw [k, h]

theorem Cpu.Stalled.t {c d : Cpu} (h : c.Stalled d) : d.t = c.t := by rw [h]

theorem Cpu.Stalled.deferred {c d : Cpu} (h : c.Stalled d) : d.deferred = c.deferred := by rw [h]

/-- What a DMA leaves, `n` of its cycles at most still to come. -/
theorem State.dmaTick_ok {s t : State} (h : s.dmaTick = .ok t) :
    s.cpu.Stalled t.cpu ∧ t.fault = s.fault ∧ t.dma.pending = s.dma.pending - 1 ∧
      t.dma.active = decide (s.dma.pending - 1 ≠ 0) := by
  have hc := State.busCycle_cycled h
  have hdma : t.dma = { s.dma.countDown with latch := t.dma.latch } := hc.dma (by
    intro hw
    change (s.dma.drive s.cpu).rw = .write at hw
    show cpuTarget (s.dma.drive s.cpu).ab ≠ _
    unfold Dma.drive at hw ⊢
    dsimp only at hw ⊢
    split at hw
    · cases hw
    · split at hw
      · cases hw
      · next h1 h2 => rw [if_neg h1, if_neg h2]; exact nofun)
  refine ⟨?_, (State.busCycle_fixed h).fault, by rw [hdma]; rfl, by rw [hdma]; rfl⟩
  have hdrive : s.cpu.Stalled s.dmaStep.cpu := by
    show s.cpu.Stalled (s.dma.drive s.cpu)
    unfold Cpu.Stalled
    rw [Dma.drive_eq]
  refine hdrive.trans ?_
  unfold Cpu.Stalled
  rw [hc.cpu]

theorem State.dmaTicks_idle {s : State} (h : s.dma.active = false) (n : Nat) : State.dmaTicks n s = .ok s := by
  cases n with
  | zero => rfl
  | succ n => unfold State.dmaTicks; rw [h]; rfl

theorem State.dmaTicks_reaches {n : Nat} {s : State} (hf : s.fault = none) (ha : s.dma.active = true)
    (hn : s.dma.pending < n) :
    s.Reaches (State.dmaTicks n s) ∧
      ∀ t, State.dmaTicks n s = .ok t → s.cpu.Stalled t.cpu ∧ t.fault = none ∧ t.dma.active = false := by
  induction n generalizing s with
  | zero => omega
  | succ n ih =>
    have htick := s.reaches_tick
    rw [State.tick_dma hf ha] at htick
    unfold State.dmaTicks
    rw [if_pos ha]
    cases hdma : s.dmaTick with
    | error f =>
      rw [hdma] at htick
      exact ⟨htick, fun t ht => (by cases ht)⟩
    | ok u =>
      rw [hdma] at htick
      rw [andThen_ok]
      obtain ⟨hstall, hfault, hpending, hactive⟩ := State.dmaTick_ok hdma
      rw [hf] at hfault
      cases hu : u.dma.active with
      | false =>
        rw [State.dmaTicks_idle hu]
        exact ⟨htick, fun t ht => by cases ht; exact ⟨hstall, hfault, hu⟩⟩
      | true =>
        rw [hactive, decide_eq_true_eq] at hu
        obtain ⟨hreach, hok⟩ := ih hfault (by rw [hactive, decide_eq_true_eq]; exact hu) (by omega)
        refine ⟨htick.trans (.inr (by rw [hactive, decide_eq_true_eq]; exact hu)) hreach, fun t ht => ?_⟩
        obtain ⟨hstall', hrest⟩ := hok t ht
        exact ⟨hstall.trans hstall', hrest⟩

/-- The end of a DMA. -/
theorem State.finishDma_ok {s t : State} (hf : s.fault = none) (h : s.finishDma = .ok t) :
    s.cpu.Stalled t.cpu ∧ t.fault = none ∧ t.dma.active = false := by
  cases ha : s.dma.active with
  | false =>
    rw [State.finishDma_idle ha] at h
    cases h
    exact ⟨.refl _, hf, ha⟩
  | true => exact (State.dmaTicks_reaches hf ha (Nat.lt_succ_self _)).2 t h

/-! ## A row, and the rows of a table -/

/-- A CPU cycle is the ticks of the DMA before it and one tick, where the CPU step runs the row. -/
theorem State.cycle_reaches {s : State} {r : Row} (hf : s.fault = none) (ht : s.cpu.t ≠ 1)
    (hstep : ∀ c, s.cpu.Stalled c → c.step = .ok (r { c with sync := false })) : s.Reaches (s.cycle r) := by
  have htick : ∀ t : State, s.cpu.Stalled t.cpu → t.fault = none → t.dma.active = false →
      t.Reaches (State.busCycle { t with cpu := r { t.cpu with sync := false } } .cpu) := by
    intro t hstall hfault hidle
    have h := t.reaches_tick
    rw [State.tick_cpu hfault hidle (hstep _ hstall)] at h
    exact h
  unfold State.cycle
  cases ha : s.dma.active with
  | false =>
    rw [State.finishDma_idle ha]
    exact htick s (.refl _) hf ha
  | true =>
    obtain ⟨hreach, hok⟩ := State.dmaTicks_reaches hf ha (Nat.lt_succ_self _)
    unfold State.finishDma
    cases hd : State.dmaTicks (s.dma.pending + 1) s with
    | error f => rw [hd] at hreach; exact hreach
    | ok t =>
      obtain ⟨hstall, hfault, hidle⟩ := hok t hd
      rw [hd] at hreach
      exact hreach.trans (.inl (by rw [hstall.t]; exact ht)) (htick t hstall hfault hidle)

/-- What a CPU cycle leaves of the row that drove it. -/
theorem State.cycle_ok {s t : State} {r : Row} (hf : s.fault = none) (h : s.cycle r = .ok t) :
    ∃ c, s.cpu.Stalled c ∧ (r { c with sync := false }).Stalled t.cpu ∧ t.fault = none ∧
      ((r { c with sync := false }).rw = .read → t.dma.active = false) := by
  obtain ⟨u, hu, ht⟩ := andThen_eq_ok h
  obtain ⟨hstall, hfault, hidle⟩ := State.finishDma_ok hf hu
  have hc := State.busCycle_cycled ht
  refine ⟨u.cpu, hstall, ?_, (State.busCycle_fixed ht).fault.trans hfault, fun hr => ?_⟩
  · unfold Cpu.Stalled
    rw [hc.cpu]
  · rw [hc.dma fun hw => by cases hr.symm.trans hw]
    exact hidle

/-- The run `r` ends as the ticks from `s` do, up to the deferred action, and up to a DMA that only an instruction with no
deferred action starts. -/
def State.Finishes (s : State) : Run → Prop
  | .ok t => ∃ u, s.Reaches (.ok u) ∧ u.commit = t ∧ u.cpu.t = 1 ∧ u.fault = none ∧
      (u.cpu.deferred = .none ∨ u.dma.active = false)
  | .error f => s.Reaches (.error f)

theorem Cpu.step_row {c : Cpu} {rows : List Row} {r : Row} (hl : c.resetLine = false) (ht : 2 < c.t)
    (hrows : opcodeTable c.ir = some rows) (hr : rows[c.t - 2]? = some r) :
    c.step = .ok (r { c with sync := false }) := by
  rw [Cpu.step_eq, Cpu.sampled_running hl, if_neg (show ¬ c.t = 1 by omega), if_neg (show ¬ c.t = 2 by omega)]
  unfold Cpu.runRow
  dsimp only
  rw [hrows]
  dsimp only
  rw [hr]

/-- Where cycle `k` of the table `table` begins. -/
structure State.AtRow (table : List Row) (k : Nat) (s : State) : Prop where
  t : s.cpu.t = k
  fault : s.fault = none
  resetLine : s.cpu.resetLine = false
  deferred : s.cpu.deferred = .none
  table : opcodeTable s.cpu.ir = some table

/-- A row reached from `w`: it is the last, or the rest follows. -/
theorem State.row_finishes {table rows : List Row} {r : Row} {k : Nat} {s w : State} (hs : s.AtRow table k)
    (hmoves : ∀ c : Cpu, c.Moves k (!rows.isEmpty || false) (r c)) (hw : w.Reaches (s.cycle r))
    (hrest : ∀ t : State, w.Reaches (.ok t) → rows ≠ [] → t.AtRow table (k + 1) → w.Finishes (t.runRows rows)) :
    w.Finishes (s.runRows (r :: rows)) := by
  cases hc : s.cycle r with
  | error f =>
    rw [State.runRows_error hc]
    rw [hc] at hw
    exact hw
  | ok t =>
    rw [hc] at hw
    obtain ⟨c, hstall, hrow, hfault, hidle⟩ := State.cycle_ok hs.fault hc
    have hm := hmoves { c with sync := false }
    have hdeferred : c.deferred = .none := hstall.deferred.trans hs.deferred
    have hdef : t.cpu.deferred = .none ∨ t.dma.active = false ∧ t.cpu.t = 1 := by
      rw [hrow.deferred, hrow.t]
      obtain h | ⟨h1, h2⟩ := hm.deferred
      · exact .inl (h.trans hdeferred)
      · exact .inr ⟨hidle h1, h2⟩
    by_cases ht : t.cpu.t = 1
    · rw [State.runRows_last hc ht]
      exact ⟨t, hw, rfl, ht, hfault, hdef.imp_right And.left⟩
    · rw [State.runRows_more hc ht]
      obtain ⟨hmore, hnext⟩ := hm.t.resolve_left fun h => ht (hrow.t.trans h)
      refine hrest t hw (by rintro rfl; cases hmore) ⟨?_, hfault, ?_, ?_, ?_⟩
      · rw [hrow.t]
        exact hnext (hstall.t.trans hs.t)
      · rw [hrow]
        show (r { c with sync := false }).resetLine = false
        rw [hm.resetLine]
        show c.resetLine = false
        rw [hstall]
        exact hs.resetLine
      · exact hdef.resolve_right fun h => ht h.2
      · rw [hrow]
        show opcodeTable (r { c with sync := false }).ir = _
        rw [hm.ir]
        show opcodeTable c.ir = _
        rw [hstall]
        exact hs.table

/-- The rows from the first one on, reached from `w`, are the ticks from `w`. -/
theorem State.runRows_finishes {table rows : List Row} {r : Row} {k : Nat} {s w : State} (hok : RowsOk false k (r :: rows))
    (hk : 2 ≤ k) (hs : s.AtRow table k) (hrows : table.drop (k - 2) = r :: rows) (hw : w.Reaches (s.cycle r)) :
    w.Finishes (s.runRows (r :: rows)) := by
  induction rows generalizing r k s with
  | nil => exact State.row_finishes hs hok.1 hw fun t _ hne => absurd rfl hne
  | cons r' rows ih =>
    refine State.row_finishes hs hok.1 hw fun t hwt _ ht => ?_
    have hdrop : table.drop (k + 1 - 2) = r' :: rows := by
      have h := congrArg (List.drop 1) hrows
      rw [List.drop_drop] at h
      rwa [show k - 2 + 1 = k + 1 - 2 by omega] at h
    have hget : table[k + 1 - 2]? = some r' := by
      rw [← Nat.add_zero (k + 1 - 2), ← List.getElem?_drop, hdrop]
      rfl
    refine ih hok.2 (by omega) ht hdrop (hwt.trans (.inl (by rw [ht.t]; omega)) ?_)
    refine State.cycle_reaches ht.fault (by rw [ht.t]; omega) fun c hstall => ?_
    have hct : c.t = k + 1 := hstall.t.trans ht.t
    refine Cpu.step_row (rows := table) (by rw [hstall]; exact ht.resetLine) (by omega) (by rw [hstall]; exact ht.table) ?_
    rw [hct]
    exact hget

/-! ## The CPU only carries what a bus cycle does not use -/

theorem State.busWrite_withCpu (s : State) (d : Cpu) (a : Word) (v : Byte) :
    (s.withCpu d).busWrite a v = (s.busWrite a v).map (·.withCpu d) := by
  unfold State.busWrite
  cases cpuTarget a
  case prgRam =>
    show (if s.cart.prgRamLen = 0 then _ else _) = Except.map _ (if s.cart.prgRamLen = 0 then _ else _)
    split <;> rfl
  all_goals rfl

theorem State.busRead_withCpu (s : State) (d : Cpu) (a : Word) :
    (s.withCpu d).busRead a = (s.busRead a).map fun x => (x.1, x.2.withCpu d) := by
  unfold State.busRead
  cases cpuTarget a
  case prgRam =>
    show (if s.cart.prgRamLen = 0 then _ else _) = Except.map _ (if s.cart.prgRamLen = 0 then _ else _)
    split <;> rfl
  all_goals rfl

theorem andThen_map (r : Run) (g : State → State) (f : State → Run) :
    andThen (r.map g) f = andThen r fun s => f (g s) := by cases r <;> rfl

theorem map_andThen (r : Run) (g : State → State) (f : State → Run) :
    (andThen r f).map g = andThen r fun s => (f s).map g := by cases r <;> rfl

theorem State.ppuStep_withCpu (s : State) (d : Cpu) : (s.withCpu d).ppuStep = s.ppuStep.map (·.withCpu d) := by
  have hread : ∀ t : State, (t.withCpu d).servePpuRead = t.servePpuRead.map (·.withCpu d) := by
    intro t
    unfold State.servePpuRead
    show (if t.ppu.vramRd then _ else _) = Except.map _ (if t.ppu.vramRd then _ else _)
    split
    · show (match t.ppuBusRead t.ppu.vramAddr with | .error f => _ | .ok v => _) = _
      cases t.ppuBusRead t.ppu.vramAddr <;> rfl
    · rfl
  have hwrite : ∀ t : State, (t.withCpu d).servePpuWrite = t.servePpuWrite.map (·.withCpu d) := by
    intro t
    unfold State.servePpuWrite
    show (if t.ppu.vramWr then _ else _) = Except.map _ (if t.ppu.vramWr then _ else _)
    split
    · show (if t.ppu.vramRd then _ else _) = Except.map _ (if t.ppu.vramRd then _ else _)
      split
      · show Except.ok (if t.ppu.vramAddr.toNat < 0x2000 then _ else _) =
          Except.ok (State.withCpu (if t.ppu.vramAddr.toNat < 0x2000 then _ else _) d)
        split <;> rfl
      · show (if t.ppu.vramAddr.toNat < 0x2000 then _ else _) =
          Except.map _ (if t.ppu.vramAddr.toNat < 0x2000 then _ else _)
        split <;> rfl
    · rfl
  unfold State.ppuStep
  show (match s.ppu.step with | .error f => _ | .ok p => _) = _
  cases s.ppu.step with
  | error f => rfl
  | ok p =>
    show andThen (State.servePpuRead (State.withCpu { s with ppu := p } d)) _ = _
    rw [hread, andThen_map, map_andThen]
    exact congrArg _ (funext hwrite)

theorem State.ppuSteps_withCpu (s : State) (d : Cpu) : (s.withCpu d).ppuSteps = s.ppuSteps.map (·.withCpu d) := by
  unfold State.ppuSteps
  rw [State.ppuStep_withCpu, andThen_map, map_andThen]
  simp only [State.ppuStep_withCpu]
  rw [← map_andThen, andThen_map]
  exact congrArg _ (funext fun t => t.ppuStep_withCpu d)

/-- A CPU that carries on with what a bus cycle left on `db` and in the interrupt latches. -/
def Cpu.carry (d e : Cpu) : Cpu :=
  { d with db := e.db, pendingNmi := e.pendingNmi, nmiPrev := e.nmiPrev, irqLine := e.irqLine }

/-- Two CPUs that drive the bus alike and hold the NMI latch alike. -/
structure Cpu.SameBus (c d : Cpu) : Prop where
  ab : d.ab = c.ab
  db : d.db = c.db
  rw : d.rw = c.rw
  pendingNmi : d.pendingNmi = c.pendingNmi
  nmiPrev : d.nmiPrev = c.nmiPrev

theorem State.driveBus_withCpu {c d : Cpu} (h : c.SameBus d) (s : State) :
    (s.withCpu d).driveBus = (s.withCpu c).driveBus.map (·.withCpu d) := by
  unfold State.driveBus
  show (match d.rw with | .write => (s.withCpu d).busWrite d.ab d.db | .read => match cpuTarget d.ab with | .ppu r => _ | _ => _) =
    Except.map _ (match c.rw with | .write => (s.withCpu c).busWrite c.ab c.db | .read => match cpuTarget c.ab with | .ppu r => _ | _ => _)
  rw [h.ab, h.db, h.rw]
  cases c.rw with
  | write => exact State.busWrite_withCpu (s.withCpu c) d c.ab c.db
  | read =>
    dsimp only
    split <;> rfl

theorem State.completeRead_write {s : State} (h : s.cpu.rw = .write) (m : Master) : s.completeRead m = .ok s := by
  unfold State.completeRead
  rw [h]

theorem State.completeRead_read {s : State} (h : s.cpu.rw = .read) (m : Master) :
    s.completeRead m = (s.busRead s.cpu.ab).map fun x => x.2.deliver m x.1 := by
  unfold State.completeRead
  rw [h]
  dsimp only
  cases s.busRead s.cpu.ab <;> rfl

theorem State.completeRead_withCpu {d : Cpu} {t : State} (m : Master) (h : t.cpu.SameBus d) :
    (t.withCpu d).completeRead m = (t.completeRead m).map fun u => u.withCpu { d with db := u.cpu.db } := by
  cases hrw : t.cpu.rw with
  | write =>
    rw [State.completeRead_write hrw, State.completeRead_write (s := t.withCpu d) (h.rw.trans hrw)]
    show Except.ok (t.withCpu d) = Except.ok (t.withCpu { d with db := t.cpu.db })
    rw [← h.db]
  | read =>
    rw [State.completeRead_read hrw, State.completeRead_read (s := t.withCpu d) (h.rw.trans hrw),
      State.busRead_withCpu, ← h.ab]
    show Except.map _ (Except.map _ (t.busRead d.ab)) = _
    cases t.busRead d.ab <;> rfl

/-- A bus cycle driven by another CPU that drives the bus alike. -/
theorem State.busCycle_withCpu {c d : Cpu} (h : c.SameBus d) (s : State) (m : Master) :
    (s.withCpu d).busCycle m = ((s.withCpu c).busCycle m).map fun t => t.withCpu (d.carry t.cpu) := by
  unfold State.busCycle
  rw [State.driveBus_withCpu h, andThen_map, map_andThen]
  have hdrive := (s.withCpu c).driveBus_meets
  cases hs1 : (s.withCpu c).driveBus with
  | error f => rfl
  | ok s1 =>
    rw [hs1] at hdrive
    have hcpu1 : s1.cpu = c := hdrive.cpu
    rw [andThen_ok, andThen_ok, State.ppuSteps_withCpu, andThen_map, map_andThen]
    have hdots := s1.ppuSteps_meets True
    cases hs2 : s1.ppuSteps with
    | error f => rfl
    | ok s2 =>
      rw [hs2] at hdots
      obtain rfl : s2.cpu = c := hdots.cpu.trans hcpu1
      rw [andThen_ok, andThen_ok]
      set d' : Cpu := (s2.withCpu d).latchNmi.cpu with hd'
      have hlatch : s2.latchNmi.cpu.SameBus d' := by
        refine ⟨h.ab, h.db, h.rw, ?_, rfl⟩
        show (d.pendingNmi || (s2.ppu.nmiOut && !d.nmiPrev)) = (s2.cpu.pendingNmi || (s2.ppu.nmiOut && !s2.cpu.nmiPrev))
        rw [h.pendingNmi, h.nmiPrev]
      have hread := s2.latchNmi.completeRead_meets m
      rw [show (s2.withCpu d).latchNmi = s2.latchNmi.withCpu d' from rfl, State.completeRead_withCpu m hlatch, andThen_map,
        map_andThen]
      cases hs3 : s2.latchNmi.completeRead m with
      | error f => rfl
      | ok s3 =>
        rw [hs3] at hread
        have hcpu3 : s3.cpu = { s2.latchNmi.cpu with db := s3.cpu.db } := hread.cpu
        have hnmi : d'.pendingNmi = s3.cpu.pendingNmi := by rw [hcpu3]; exact hlatch.pendingNmi
        have hprev : d'.nmiPrev = s3.cpu.nmiPrev := by rw [hcpu3]; rfl
        rw [andThen_ok, andThen_ok]
        show Except.ok { s3 with
            apu := s3.apu.step, cyc := s3.cyc + 1,
            cpu := { d' with db := s3.cpu.db, irqLine := s3.apu.step.irqOut } } =
          Except.ok { s3 with
            apu := s3.apu.step, cyc := s3.cyc + 1,
            cpu := { d with db := s3.cpu.db, pendingNmi := s3.cpu.pendingNmi, nmiPrev := s3.cpu.nmiPrev,
                            irqLine := s3.apu.step.irqOut } }
        rw [← hnmi, ← hprev]
        rfl

/-! ## The operand fetch and the meaning are the rows of the table (log 6) -/

/-- The CPU after a cycle with no DMA before it. -/
theorem State.cycle_idle_ok {s t : State} {r : Row} (ha : s.dma.active = false) (h : s.cycle r = .ok t) :
    t.cpu = (drives r s).carry t.cpu ∧ ((drives r s).rw = .read → t.dma.active = false) := by
  rw [State.cycle_idle ha] at h
  have hc := State.busCycle_cycled h
  refine ⟨?_, fun hr => ?_⟩
  · conv_lhs => rw [hc.cpu]
    unfold Cpu.carry
    rw [hc.cpu]
    rfl
  · rw [hc.dma fun hw => by cases hr.symm.trans hw]
    exact ha

/-- A row that differs from another in the next cycle and in the deferred action. -/
theorem State.cycle_retarget {s : State} {r r' : Row} {k : Nat} {d : Deferred} (ha : s.dma.active = false)
    (h : drives r' s = { drives r s with t := k, deferred := d }) :
    s.cycle r' = (s.cycle r).map fun t => t.withCpu { t.cpu with t := k, deferred := d } := by
  have hbus : (drives r s).SameBus (drives r' s) := by rw [h]; exact ⟨rfl, rfl, rfl, rfl, rfl⟩
  rw [State.cycle_idle ha, State.busCycle_withCpu hbus, ← State.cycle_idle ha]
  cases ht : s.cycle r with
  | error f => rfl
  | ok t =>
    have hcpu := (State.cycle_idle_ok ha ht).1
    show Except.ok (t.withCpu ((drives r' s).carry t.cpu)) = Except.ok (t.withCpu { t.cpu with t := k, deferred := d })
    have hcarry : (drives r' s).carry t.cpu = { (drives r s).carry t.cpu with t := k, deferred := d } := by
      rw [h]
      rfl
    rw [hcarry, ← hcpu]

/-- The operand is the one of the bytes `b1` and `b2`. -/
def Operand.Of (b1 b2 : Byte) : Operand → Prop
  | .imm b | .zp b | .zpx b | .zpy b | .izx b | .izy b => b = b1
  | .abs a | .abx a | .aby a => a = joinBytes b2 b1

/-- The operand of the instruction is the one of the bytes `b1` and `b2`; of JSR, as far as it is used. -/
def Form.Of (b1 b2 : Byte) : Form → Prop
  | .readUse _ o | .store _ o | .rmw _ o => o.Of b1 b2
  | .branch _ off => BitVec.ofInt 8 off = b1
  | .jmp a | .jmpInd a => a = joinBytes b2 b1
  | .jsr a => loByte a = b1
  | _ => True

theorem opcodeRow_of {op b1 b2 : Byte} {i : Instr} (h : opcodeRow op b1 b2 = some i) : (formOf i).Of b1 b2 := by
  unfold opcodeRow at h
  split at h
  case h_152 => cases h
  all_goals
    cases h
    first
    | exact rfl
    | trivial
    | exact BitVec.ofInt_toInt
    | exact loByte_joinBytes b2 b1

/-- The number of operand bytes fetched before the meaning starts. -/
def Form.fetched : Form → Nat
  | .readUse _ o | .store _ o | .rmw _ o => o.bytes
  | .branch .. | .jsr _ => 1
  | .jmp _ | .jmpInd _ => 2
  | _ => 0

theorem fetchCount_eq (i : Instr) : fetchCount i = (formOf i).fetched := by cases i <;> rfl

/-- The operand of a memory form and its rows after the operand fetch. -/
def Form.afterFetch : Form → Option (Operand × List Row)
  | .readUse _ (.imm _) => none
  | .readUse op o => some (o, o.rows true (accessUse op))
  | .store r o => some (o, o.rows false (accessStore r))
  | .rmw op o => some (o, rmwRows op o)
  | _ => none

theorem Form.afterFetch_some {f : Form} {o : Operand} {rows : List Row} (h : f.afterFetch = some (o, rows)) :
    f.table = o.fetchRows ++ rows ∧ f.fetched = o.bytes ∧ (∀ b1 b2, f.Of b1 b2 → o.Of b1 b2) ∧
      ∀ s, f.run s = s.runFrom (o.hold s.cpu) o.firstCycle rows := by
  cases f with
  | readUse op o' => cases o' <;> cases h <;> exact ⟨rfl, rfl, fun _ _ => id, fun _ => rfl⟩
  | store r o' => cases h; exact ⟨rfl, rfl, fun _ _ => id, fun _ => rfl⟩
  | rmw op o' => cases h; exact ⟨rfl, rfl, fun _ _ => id, fun _ => rfl⟩
  | _ => cases h

theorem State.runFrom_self {s : State} {c : Cpu} {k : Nat} (rows : List Row) (h : ({ c with t := k } : Cpu) = s.cpu) :
    s.runFrom c k rows = (s.runRows rows).result := by
  unfold State.runFrom
  rw [h]
  rfl

/-- Where the operand fetch of a table begins: T2, with no DMA. -/
structure State.AtFetch (s : State) : Prop where
  idle : s.dma.active = false
  t : s.cpu.t = 2
  deferred : s.cpu.deferred = .none

/-- No operand byte: the meaning is the table; of BRK, once the kind is latched. -/
theorem Form.run_fetched_zero {f : Form} {s : State} (h : f.fetched = 0) (hs : s.AtFetch)
    (hbrk : f = .brk → s.cpu.intKind = .brk) : f.run s = (s.runRows f.table).result := by
  have hself : ({ s.cpu with t := 2 } : Cpu) = s.cpu := by rw [← hs.t]
  cases f with
  | readUse op o | store r o | rmw op o => cases o <;> cases h
  | branch k off | jmp a | jmpInd a | jsr a => cases h
  | brk =>
    have hkind : ({ s.cpu with intKind := .brk, t := 2 } : Cpu) = s.cpu := by rw [← hs.t, ← hbrk rfl]
    exact State.runFrom_self (c := { s.cpu with intKind := .brk }) _ hkind
  | _ => exact State.runFrom_self _ hself

theorem Cpu.with_t {c : Cpu} {k : Nat} (h : c.t = k) : ({ c with t := k } : Cpu) = c := by rw [← h]

theorem Operand.hold_one {o : Operand} {b2 : Byte} {c : Cpu} (hb : o.bytes = 1) (ho : o.Of c.db b2) : o.hold c = c := by
  cases o with
  | abs a | abx a | aby a => cases hb
  | _ b => obtain rfl : b = c.db := ho; rfl

theorem Operand.hold_two {o : Operand} {c : Cpu} (hb : o.bytes = 2) (ho : o.Of c.lo c.db) : o.hold c = c := by
  have hword : ∀ a, a = joinBytes c.db c.lo → c.holdWord a = c := by
    rintro a rfl
    unfold Cpu.holdWord
    rw [hiByte_joinBytes, loByte_joinBytes]
  cases o with
  | abs a | abx a | aby a => exact hword a ho
  | _ b => cases hb

/-- After the first operand byte. -/
theorem State.AtFetch.first {s v : State} (hs : s.AtFetch) (h : s.cycle rowFetch1 = .ok v) :
    v.dma.active = false ∧ v.cpu.t = 3 ∧ v.cpu.deferred = .none ∧ v.cpu.regs.p = s.cpu.regs.p := by
  obtain ⟨hcpu, hidle⟩ := State.cycle_idle_ok hs.idle h
  refine ⟨hidle rfl, ?_, ?_, ?_⟩
  · rw [hcpu]
    exact congrArg (· + 1) hs.t
  · rw [hcpu]
    exact hs.deferred
  · rw [hcpu]
    rfl

/-- One operand byte: the fetch and the meaning are the table. -/
theorem Form.run_fetched_one {f : Form} {s v : State} {b2 : Byte} (h : f.fetched = 1) (hs : s.AtFetch)
    (hv : s.cycle rowFetch1 = .ok v) (ho : f.Of v.cpu.db b2) : f.run v = (s.runRows f.table).result := by
  obtain ⟨-, ht, hdef, hp⟩ := hs.first hv
  have hne : v.cpu.t ≠ 1 := by omega
  cases hf : f.afterFetch with
  | some x =>
    obtain ⟨o, rows⟩ := x
    obtain ⟨htable, hbytes, hof, hrun⟩ := Form.afterFetch_some hf
    have hone : o.bytes = 1 := hbytes.symm.trans h
    have hrows : o.fetchRows = [rowFetch1] := if_pos hone
    rw [hrun, htable, hrows, Operand.hold_one hone (hof _ _ ho)]
    show _ = (s.runRows (rowFetch1 :: rows)).result
    rw [State.runRows_more hv hne]
    refine State.runFrom_self rows ?_
    rw [Operand.firstCycle, hone]
    exact Cpu.with_t ht
  | none =>
    cases f with
    | readUse op o =>
      cases o with
      | imm b =>
        obtain rfl : b = v.cpu.db := ho
        have hcycle : s.cycle (rowImmediate op) = .ok (v.withCpu { v.cpu with t := 1, deferred := .op op }) := by
          rw [State.cycle_retarget (r := rowFetch1) hs.idle rfl, hv]
          rfl
        show _ = (s.runRows [rowImmediate op]).result
        rw [State.runRows_last hcycle rfl]
        rfl
      | _ => cases hf
    | branch k off =>
      have hcycle : s.cycle (rowBranchFetch k) =
          .ok (v.withCpu { v.cpu with t := if k.holds v.cpu.regs.p then 3 else 1, deferred := v.cpu.deferred }) := by
        rw [State.cycle_retarget (r := rowFetch1) (d := s.cpu.deferred) (k := if k.holds s.cpu.regs.p then 3 else 1) hs.idle
          rfl, hv, hp, hdef, hs.deferred]
        rfl
      have hheld : v.cpu.holdByte (BitVec.ofInt 8 off) = v.cpu := congrArg (fun b => v.cpu.holdByte b) ho
      show Machine.branch k off v = (s.runRows [rowBranchFetch k, rowBranchTaken, rowBranchCross]).result
      unfold Machine.branch
      rw [hheld]
      dsimp only
      split
      · next hk =>
        rw [if_pos hk, Cpu.with_t ht] at hcycle
        rw [State.runRows_more hcycle hne]
        exact State.runFrom_self _ (Cpu.with_t ht)
      · next hk =>
        rw [if_neg hk] at hcycle
        rw [State.runRows_last hcycle rfl]
        rfl
    | jsr a =>
      have hheld : v.cpu.holdByte (loByte a) = v.cpu := congrArg (fun b => v.cpu.holdByte b) ho
      show jumpSubroutine a v = (s.runRows (rowFetch1 :: jsrRows)).result
      unfold jumpSubroutine
      rw [State.runRows_more hv hne, hheld]
      exact State.runFrom_self _ (Cpu.with_t ht)
    | store r o | rmw op o => cases hf
    | _ => cases h

/-- Two operand bytes: the fetch and the meaning are the table. -/
theorem Form.run_fetched_two {f : Form} {s v w : State} (h : f.fetched = 2) (hs : s.AtFetch)
    (hv : s.cycle rowFetch1 = .ok v) (hw : v.cycle rowFetch2 = .ok w) (ho : f.Of v.cpu.db w.cpu.db) :
    f.run w = (s.runRows f.table).result := by
  obtain ⟨hidle, ht, hdef, -⟩ := hs.first hv
  have hne : v.cpu.t ≠ 1 := by omega
  obtain ⟨hcpu, -⟩ := State.cycle_idle_ok hidle hw
  have htw : w.cpu.t = 4 := by
    rw [hcpu]
    exact congrArg (· + 1) ht
  have hnew : w.cpu.t ≠ 1 := by omega
  have hlo : w.cpu.lo = v.cpu.db := by
    rw [hcpu]
    rfl
  have hword : ∀ a, a = joinBytes w.cpu.db v.cpu.db → w.cpu.holdWord a = w.cpu := by
    rintro a rfl
    unfold Cpu.holdWord
    rw [hiByte_joinBytes, loByte_joinBytes, ← hlo]
  have hrest : ∀ rows, (s.runRows (rowFetch1 :: rowFetch2 :: rows)).result = (w.runRows rows).result := by
    intro rows
    rw [State.runRows_more hv hne, State.runRows_more hw hnew]
  cases hf : f.afterFetch with
  | some x =>
    obtain ⟨o, rows⟩ := x
    obtain ⟨htable, hbytes, hof, hrun⟩ := Form.afterFetch_some hf
    have htwo : o.bytes = 2 := hbytes.symm.trans h
    have hrows : o.fetchRows = [rowFetch1, rowFetch2] := if_neg (by omega)
    rw [hrun, htable, hrows, Operand.hold_two htwo (hlo ▸ hof _ _ ho)]
    refine (State.runFrom_self rows ?_).trans (hrest rows).symm
    rw [Operand.firstCycle, htwo]
    exact Cpu.with_t htw
  | none =>
    cases f with
    | jmp a =>
      have hcycle : v.cycle rowJump = .ok (w.withCpu { w.cpu with t := 1, deferred := .jump v.cpu.db }) := by
        rw [State.cycle_retarget (r := rowFetch2) hidle rfl, hw]
        rfl
      have hlow : loByte a = v.cpu.db := by rw [show a = joinBytes w.cpu.db v.cpu.db from ho, loByte_joinBytes]
      show jump a w = (s.runRows [rowFetch1, rowJump]).result
      unfold jump
      rw [State.runRows_more hv hne, State.runRows_last hcycle rfl, hword a ho, hlow]
      rfl
    | jmpInd a =>
      show jumpIndirect a w = (s.runRows (rowFetch1 :: rowFetch2 :: jmpIndRows)).result
      unfold jumpIndirect
      rw [hrest, hword a ho]
      exact State.runFrom_self _ (Cpu.with_t htw)
    | readUse op o =>
      cases o with
      | abs a | abx a | aby a => cases hf
      | _ => cases h
    | store r o | rmw op o => cases hf
    | _ => cases h

/-- The first row of a table that fetches an operand byte is that fetch, as far as the bus sees it. -/
theorem Form.table_first {f : Form} (h : f.fetched ≠ 0) (s : State) :
    ∃ r rows k d, f.table = r :: rows ∧ drives r s = { drives rowFetch1 s with t := k, deferred := d } := by
  have hfetch : ∀ (o : Operand) rows, ∃ rows', o.fetchRows ++ rows = rowFetch1 :: rows' := by
    intro o rows
    unfold Operand.fetchRows
    split <;> exact ⟨_, rfl⟩
  cases hf : f.afterFetch with
  | some x =>
    obtain ⟨rows, hrows⟩ := hfetch x.1 x.2
    exact ⟨rowFetch1, rows, _, _, (Form.afterFetch_some hf).1.trans hrows, rfl⟩
  | none =>
    cases f with
    | readUse op o =>
      cases o with
      | imm b => exact ⟨rowImmediate op, [], _, _, rfl, rfl⟩
      | _ => cases hf
    | branch k off => exact ⟨rowBranchFetch k, _, _, _, rfl, rfl⟩
    | jmp a | jmpInd a | jsr a => exact ⟨rowFetch1, _, _, _, rfl, rfl⟩
    | store r o | rmw op o => cases hf
    | _ => exact absurd rfl h

/-- The second row of a table that fetches two operand bytes. -/
theorem Form.table_second {f : Form} (h : f.fetched = 2) (s : State) :
    ∃ r rows k d, f.table = rowFetch1 :: r :: rows ∧ drives r s = { drives rowFetch2 s with t := k, deferred := d } := by
  cases hf : f.afterFetch with
  | some x =>
    obtain ⟨htable, hbytes, -⟩ := Form.afterFetch_some hf
    have hrows : x.1.fetchRows = [rowFetch1, rowFetch2] := if_neg (by rw [← hbytes, h]; omega)
    exact ⟨rowFetch2, x.2, _, _, htable.trans (congrArg (· ++ x.2) hrows), rfl⟩
  | none =>
    cases f with
    | readUse op o =>
      cases o with
      | imm b => cases h
      | _ => cases hf
    | jmp a => exact ⟨rowJump, [], _, _, rfl, rfl⟩
    | jmpInd a => exact ⟨rowFetch2, _, _, _, rfl, rfl⟩
    | store r o | rmw op o => cases hf
    | _ => cases h

/-- A fetch that stops stops the rows. -/
theorem State.runRows_retarget_error {s : State} {r r' : Row} {rows : List Row} {k : Nat} {d : Deferred} {f : Fault}
    (ha : s.dma.active = false) (h : drives r' s = { drives r s with t := k, deferred := d }) (he : s.cycle r = .error f) :
    s.runRows (r' :: rows) = .error f := by
  refine State.runRows_error ?_
  rw [State.cycle_retarget ha h, he]
  rfl

theorem State.afterPoll_fault {u : State} {f : Fault} (hk : u.cpu.intKind = .none) (hf : u.fetchInstr = .error f) :
    u.afterPoll = .fault f := by
  unfold State.afterPoll
  rw [hk, hf]

/-- The fetch and the meaning of an instruction that is not BRK are the table of its opcode. -/
theorem State.afterPoll_table {u : State} {i : Instr} (hk : u.cpu.intKind = .none) (hs : u.latchOpcode.AtFetch)
    (hrow : opcodeRow u.cpu.db 0 0 = some i) (hbrk : i ≠ .brk) :
    u.afterPoll = (u.latchOpcode.runRows (formOf i).table).result := by
  set s := u.latchOpcode with hlatch
  obtain hc | hc | hc := fetchCount_le i
  · rw [State.afterPoll_instruction hk (State.fetchInstr_zero hrow hc), exec_form]
    refine Form.run_fetched_zero (fetchCount_eq i ▸ hc) hs fun h => absurd ?_ hbrk
    cases i <;> cases h
    rfl
  · have hfetched : (formOf i).fetched = 1 := fetchCount_eq i ▸ hc
    have hfetch := State.fetchInstr_one hrow hc
    cases hv : s.cycle rowFetch1 with
    | error f =>
      rw [hv] at hfetch
      obtain ⟨r, rows, k, d, htable, hdrive⟩ := Form.table_first (f := formOf i) (by omega) s
      rw [State.afterPoll_fault hk hfetch, htable, State.runRows_retarget_error hs.idle hdrive hv]
      rfl
    | ok v =>
      obtain ⟨j, hj, -, hcount, htable⟩ := opcodeRow_shape v.cpu.db ((v.peek v.cpu.regs.pc).getD 0) hrow
      rw [hv] at hfetch
      dsimp only at hfetch
      rw [hj, Option.getD_some] at hfetch
      rw [State.afterPoll_instruction hk hfetch, exec_form, ← htable]
      exact Form.run_fetched_one ((fetchCount_eq j).symm.trans (hcount.trans hc)) hs hv (opcodeRow_of hj)
  · have hfetched : (formOf i).fetched = 2 := fetchCount_eq i ▸ hc
    have hfetch := State.fetchInstr_two hrow hc
    cases hv : s.cycle rowFetch1 with
    | error f =>
      rw [hv] at hfetch
      obtain ⟨r, rows, k, d, htable, hdrive⟩ := Form.table_first (f := formOf i) (by omega) s
      rw [State.afterPoll_fault hk hfetch, htable, State.runRows_retarget_error hs.idle hdrive hv]
      rfl
    | ok v =>
      obtain ⟨hidle, ht, -⟩ := hs.first hv
      rw [hv] at hfetch
      dsimp only at hfetch
      cases hw : v.cycle rowFetch2 with
      | error f =>
        rw [hw] at hfetch
        obtain ⟨r, rows, k, d, htable, hdrive⟩ := Form.table_second hfetched v
        rw [State.afterPoll_fault hk hfetch, htable, State.runRows_more hv (by omega),
          State.runRows_retarget_error hidle hdrive hw]
        rfl
      | ok w =>
        obtain ⟨j, hj, -, hcount, htable⟩ := opcodeRow_shape v.cpu.db w.cpu.db hrow
        rw [hw] at hfetch
        dsimp only at hfetch
        rw [hj, Option.getD_some] at hfetch
        rw [State.afterPoll_instruction hk hfetch, exec_form, ← htable]
        exact Form.run_fetched_two ((fetchCount_eq j).symm.trans (hcount.trans hc)) hs hv hw (opcodeRow_of hj)

/-! ## From T2 to the boundary -/

/-- After the T1 tick. -/
structure State.AfterT1 (u : State) : Prop where
  atFetch : u.AtFetch
  fault : u.fault = none
  resetLine : u.cpu.resetLine = false
  kind : u.cpu.intKind ≠ .brk

theorem Cpu.step_second {c : Cpu} (hl : c.resetLine = false) (ht : c.t = 2) :
    c.step = ({ c with sync := false } : Cpu).stepT2 := by
  rw [Cpu.step_eq, Cpu.sampled_running hl, if_neg (show ¬ c.t = 1 by omega), if_pos (show c.t = 2 from ht)]

/-- The ticks from T2 on are the rows of the table, run from the state that has latched the opcode. -/
theorem State.table_finishes {u : State} {c : Cpu} {table : List Row} (hu : u.AfterT1)
    (hstep : u.cpu.step = ({ c with sync := false } : Cpu).runRow) (hrow : (u.withCpu c).AtRow table 2) (hne : table ≠ [])
    (hok : RowsOk false 2 table) : u.Finishes ((u.withCpu c).runRows table) := by
  obtain ⟨r, rows, rfl⟩ := List.exists_cons_of_ne_nil hne
  have hidle := hu.atFetch.idle
  have hct : c.t = 2 := hrow.t
  have hrun : ({ c with sync := false } : Cpu).runRow = .ok (r { c with sync := false }) := by
    unfold Cpu.runRow
    dsimp only
    rw [show opcodeTable c.ir = _ from hrow.table, hct]
    rfl
  refine State.runRows_finishes hok (Nat.le_refl 2) hrow rfl ?_
  have htick := u.reaches_tick
  rw [State.tick_cpu hu.fault hidle (hstep.trans hrun)] at htick
  rw [State.cycle_idle (s := u.withCpu c) hidle]
  exact htick

theorem Cpu.stepT2_interrupt {c : Cpu} (hnone : c.intKind ≠ .none) (hbrk : c.intKind ≠ .brk) :
    c.stepT2 = ({ c with ir := 0 } : Cpu).runRow := by
  unfold Cpu.stepT2
  split
  case h_4 hreset hnmi hirq =>
    cases hk : c.intKind with
    | none => exact absurd hk hnone
    | brk => exact absurd hk hbrk
    | reset => exact absurd hk hreset
    | nmi => exact absurd hk hnmi
    | irq => exact absurd hk hirq
  all_goals rfl

/-- An injected interrupt: its rows are the table of opcode 0. -/
theorem State.interrupt_finishes {u : State} (hu : u.AfterT1) (hk : u.cpu.intKind ≠ .none) :
    ∃ r, u.afterPoll = Run.result r ∧ u.Finishes r := by
  set c : Cpu := { u.cpu with ir := 0 } with hc
  have hstep : u.cpu.step = ({ c with sync := false } : Cpu).runRow := by
    rw [Cpu.step_second hu.resetLine hu.atFetch.t]
    exact Cpu.stepT2_interrupt hk hu.kind
  have hself : (u.withCpu c).withCpu { (u.withCpu c).cpu with intKind := u.cpu.intKind, t := 2 } = u.withCpu c := by
    rw [← hu.atFetch.t]
    rfl
  refine ⟨(u.withCpu c).runRows interruptRows, ?_, State.table_finishes hu hstep
    ⟨hu.atFetch.t, hu.fault, hu.resetLine, hu.atFetch.deferred, rfl⟩ (by decide) interruptRows_ok⟩
  rw [State.afterPoll_interrupt rfl hk]
  unfold State.takeInterrupt
  rw [hself]

/-- An instruction: its rows are the table of the opcode just read. -/
theorem State.instruction_finishes {u : State} (hu : u.AfterT1) (hk : u.cpu.intKind = .none) :
    ∃ r, u.afterPoll = Run.result r ∧ u.Finishes r := by
  set c : Cpu := { u.cpu with ir := u.cpu.db, intKind := if u.cpu.db = 0 then .brk else .none } with hc
  have hstep : u.cpu.step = ({ c with sync := false } : Cpu).runRow := by
    rw [Cpu.step_second hu.resetLine hu.atFetch.t]
    unfold Cpu.stepT2
    dsimp only
    rw [hk]
  cases hrow : opcodeRow u.cpu.db 0 0 with
  | none =>
    refine ⟨.error (.illegalOpcode u.cpu.db (u.cpu.regs.pc - 1)), State.afterPoll_fault hk (State.fetchInstr_illegal hrow), ?_⟩
    have htable : opcodeTable u.cpu.db = none := by unfold opcodeTable; rw [hrow]; rfl
    have htick := u.reaches_tick
    have hrun : u.cpu.step = .error (.illegalOpcode u.cpu.db (u.cpu.regs.pc - 1)) := by
      rw [hstep]
      unfold Cpu.runRow
      dsimp only
      rw [htable]
    rw [State.tick_cpu_error hu.fault hu.atFetch.idle hrun] at htick
    exact htick
  | some i =>
    have htable : opcodeTable u.cpu.db = some (formOf i).table := by unfold opcodeTable; rw [hrow]; rfl
    refine ⟨(u.withCpu c).runRows (formOf i).table, ?_, State.table_finishes hu hstep
      ⟨hu.atFetch.t, hu.fault, hu.resetLine, hu.atFetch.deferred, htable⟩ (formOf i).table_ne_nil (opcodeTable_ok htable)⟩
    have hfetch : u.latchOpcode.AtFetch := ⟨hu.atFetch.idle, hu.atFetch.t, hu.atFetch.deferred⟩
    by_cases hzero : u.cpu.db = 0
    · rw [hzero] at hrow
      obtain rfl : Instr.brk = i := Option.some.inj hrow
      rw [State.afterPoll_instruction hk (State.fetchInstr_zero (i := .brk) (by rw [hzero]; rfl) rfl), exec_form]
      have hself : u.latchOpcode.withCpu { u.latchOpcode.cpu with intKind := .brk, t := 2 } = u.withCpu c := by
        rw [hc, if_pos hzero, ← hu.atFetch.t]
        rfl
      show (State.runRows interruptRows (u.latchOpcode.withCpu { u.latchOpcode.cpu with intKind := .brk, t := 2 })).result = _
      rw [hself]
      rfl
    · have hlatch : u.withCpu c = u.latchOpcode := by
        rw [hc, if_neg hzero, ← hk]
        rfl
      rw [hlatch]
      refine State.afterPoll_table hk hfetch hrow ?_
      rintro rfl
      exact hzero (opcodeRow_eq_some hrow).2.1.symm

/-- The DMA that an instruction starts ends before the next boundary. -/
theorem State.Finishes.finish {s : State} {r : Run} (h : s.Finishes r) :
    match Result.finish (Run.result r) with
    | .next t => ∃ u, s.Reaches (.ok u) ∧ u.commit = t ∧ u.cpu.t = 1 ∧ u.dma.active = false
    | .fault f => s.Reaches (.error f)
    | .refused _ => False := by
  cases r with
  | error f => exact h
  | ok t =>
    obtain ⟨u, hreach, rfl, ht, hfault, hdef⟩ := h
    show match u.commit.finishDma.result with | .next t => _ | .fault f => _ | .refused _ => _
    cases ha : u.dma.active with
    | false =>
      rw [State.finishDma_idle (s := u.commit) ha]
      exact ⟨u, hreach, rfl, ht, ha⟩
    | true =>
      have hnone := hdef.resolve_right (by rw [ha]; exact Bool.true_eq_false.mp)
      rw [State.commit_of_none hnone]
      obtain ⟨hdma, hok⟩ := State.dmaTicks_reaches hfault ha (Nat.lt_succ_self _)
      have hreach' := hreach.trans (.inr ha) hdma
      unfold State.finishDma
      cases hd : State.dmaTicks (u.dma.pending + 1) u with
      | error f => rw [hd] at hreach'; exact hreach'
      | ok v =>
        rw [hd] at hreach'
        obtain ⟨hstall, -, hidle⟩ := hok v hd
        exact ⟨v, hreach', State.commit_of_none (hstall.deferred.trans hnone), hstall.t.trans ht, hidle⟩

/-- The T1 step of a CPU with no action deferred: a read, and the kind that the poll found. -/
theorem Cpu.stepT1_frame {c : Cpu} (hd : c.deferred = .none) :
    c.stepT1.rw = .read ∧ c.stepT1.deferred = .none ∧ c.stepT1.resetLine = c.resetLine ∧ c.stepT1.intKind ≠ .brk := by
  obtain ⟨hkind, -, -, hdef, hline⟩ := c.poll_frame
  have hfetch : ∀ d : Cpu, d.fetchOpcode.rw = .read ∧ d.fetchOpcode.deferred = d.deferred ∧
      d.fetchOpcode.resetLine = d.resetLine ∧ d.fetchOpcode.intKind = d.intKind := by
    intro d
    unfold Cpu.fetchOpcode
    split <;> exact ⟨rfl, rfl, rfl, rfl⟩
  obtain ⟨frw, fdef, fline, fkind⟩ := hfetch c.poll
  unfold Cpu.stepT1
  rw [Cpu.runDeferred_none hd]
  exact ⟨frw, fdef.trans (hdef.trans hd), fline.trans hline, by rw [fkind, hkind]; exact c.pollKind_ne_brk⟩

/-- The T1 tick from the boundary. -/
theorem State.fetchTick_afterT1 {s u : State} (hb : s.AtBoundary) (h : s.fetchTick = .ok u) : u.AfterT1 := by
  obtain ⟨-, hdef, hline, hfault, hidle⟩ := hb
  unfold State.fetchTick at h
  rw [State.finishDma_idle hidle] at h
  set c : Cpu := ({ s.cpu with sync := false } : Cpu).stepT1 with hc
  have hu : (s.withCpu c).busCycle .cpu = .ok u := h
  obtain ⟨hrw, hd, hl, hk⟩ := Cpu.stepT1_frame (c := { s.cpu with sync := false }) hdef
  rw [← hc] at hrw hd hl hk
  have ht : c.t = 2 := (Cpu.stepT1_latch _).1
  have hcycled := State.busCycle_cycled hu
  refine ⟨⟨?_, ?_, ?_⟩, (State.busCycle_fixed hu).fault.trans hfault, ?_, ?_⟩
  · rw [hcycled.dma fun hw => by cases hrw.symm.trans hw]
    exact hidle
  all_goals rw [hcycled.cpu]
  exacts [ht, hd, hl.trans hline, hk]

/-- Settles O7: the T1 tick, the rows of the table, and the DMA they start. -/
theorem stepIsTicks : Obligations.StepIsTicks := by
  intro s hb
  obtain ⟨ht, -, hline, hfault, hidle⟩ := id hb
  have htick := s.reaches_tick
  have hfetch : s.tick = s.fetchTick := by
    rw [State.tick_cpu (c := ({ s.cpu with sync := false } : Cpu).stepT1) hfault hidle]
    · unfold State.fetchTick
      rw [State.finishDma_idle hidle]
      rfl
    · rw [Cpu.step_eq, Cpu.sampled_running hline, if_pos (show s.cpu.t = 1 from ht)]
  rw [hfetch] at htick
  rw [step_boundary hb]
  unfold State.instrStep
  cases hu : s.fetchTick with
  | error f =>
    rw [hu] at htick
    exact htick
  | ok u =>
    rw [hu] at htick
    have hafter := State.fetchTick_afterT1 hb hu
    have hopen : u.Open := .inl (by rw [hafter.atFetch.t]; decide)
    obtain ⟨r, hr, hfinish⟩ : ∃ r, u.afterPoll = Run.result r ∧ u.Finishes r := by
      by_cases hk : u.cpu.intKind = .none
      · exact State.instruction_finishes hafter hk
      · exact State.interrupt_finishes hafter hk
    have hend := hfinish.finish
    dsimp only
    rw [hr]
    cases hres : Result.finish (Run.result r) with
    | next t =>
      rw [hres] at hend
      obtain ⟨v, hreach, hcommit, hv, hdma⟩ := hend
      obtain ⟨n, hn, hticks, hall⟩ := htick.trans hopen hreach
      exact ⟨n, v, hn, hticks, hcommit, hv, hdma, hall⟩
    | fault f =>
      rw [hres] at hend
      exact htick.trans hopen hend
    | refused e =>
      rw [hres] at hend
      exact hend

end Sys2Proof.Machine
end

section
/-! PROOF. The OAM DMA copies a page, cycle by cycle (rules R494 to R498). -/

namespace Sys2Proof.Machine

/-! ## The engine as the master of a bus cycle -/

/-- The engine's write is the CPU's. -/
theorem State.busCycle_dma_write {s t : State} (hr : s.cpu.rw = .write) (h : s.busCycle .cpu = .ok t) :
    s.busCycle .dma = .ok t := by
  obtain ⟨s1, s2, s3, h1, h2, h3, rfl⟩ := State.busCycle_eq_ok h
  have hcpu : s2.latchNmi.cpu.rw = .write := by
    have hdrive := s.driveBus_meets
    rw [h1] at hdrive
    show s2.cpu.rw = _
    rw [(State.ppuSteps_held h2).2.2, hdrive.cpu]
    exact hr
  rw [State.completeRead_write hcpu] at h3
  cases h3
  unfold State.busCycle
  rw [h1, andThen_ok, h2, andThen_ok, State.completeRead_write hcpu]
  rfl

/-- The engine's read is the CPU's, and the byte is latched too. -/
theorem State.busCycle_dma_read {s t : State} (hr : s.cpu.rw = .read) (h : s.busCycle .cpu = .ok t) :
    s.busCycle .dma = .ok { t with dma := { t.dma with latch := t.cpu.db } } := by
  obtain ⟨s1, s2, s3, h1, h2, h3, rfl⟩ := State.busCycle_eq_ok h
  have hcpu : s2.latchNmi.cpu.rw = .read := by
    have hdrive := s.driveBus_meets
    rw [h1] at hdrive
    show s2.cpu.rw = _
    rw [(State.ppuSteps_held h2).2.2, hdrive.cpu]
    exact hr
  rw [State.completeRead_read hcpu] at h3
  unfold State.busCycle
  rw [h1, andThen_ok, h2, andThen_ok, State.completeRead_read hcpu]
  cases hread : s2.latchNmi.busRead s2.latchNmi.cpu.ab with
  | error f => rw [hread] at h3; cases h3
  | ok x =>
    rw [hread] at h3
    cases h3
    rfl

/-! ## What the engine drives -/

theorem Dma.drive_dummy {d : Dma} (c : Cpu) (h : 512 < d.pending) : d.drive c = { c with rw := .read } := by
  have hindex : d.cycleIndex < d.dummies := by
    unfold Dma.cycleIndex Dma.dummies
    split <;> omega
  unfold Dma.drive
  rw [if_pos hindex]

/-- Past the dummy reads the index counts reads and writes. -/
theorem Dma.cycleIndex_eq {d : Dma} {j : Nat} (h : d.pending + j = 512) : d.cycleIndex = d.dummies + j := by
  unfold Dma.cycleIndex Dma.dummies
  split <;> omega

theorem Dma.drive_read {d : Dma} {k : Nat} (c : Cpu) (h : d.pending + 2 * k = 512) :
    d.drive c = { c with ab := joinBytes d.page (BitVec.ofNat 8 k), rw := .read } := by
  have hindex := Dma.cycleIndex_eq h
  have hj : d.cycleIndex - d.dummies = 2 * k := by omega
  unfold Dma.drive
  rw [if_neg (by omega), hj]
  dsimp only
  rw [if_pos (by omega), Nat.mul_div_cancel_left k (by omega)]

theorem Dma.drive_write {d : Dma} {k : Nat} (c : Cpu) (h : d.pending + (2 * k + 1) = 512) :
    d.drive c = { c with ab := 0x2004, db := d.latch, rw := .write } := by
  have hindex := Dma.cycleIndex_eq h
  have hj : d.cycleIndex - d.dummies = 2 * k + 1 := by omega
  unfold Dma.drive
  rw [if_neg (by omega), hj]
  dsimp only
  rw [if_neg (by omega)]

/-! ## The copy -/

/-- `p` cycles before the end of the DMA of page `page` that `s` starts, `k` bytes lie in OAM. -/
structure Copied (s : State) (page : Byte) (k p : Nat) (t : State) : Prop where
  safe : t.PpuSafe
  ram : t.ram = s.ram
  prgRam : t.prgRam = s.prgRam
  cart : t.cart = s.cart
  cpu : s.cpu.Stalled t.cpu
  dmaPage : t.dma.page = page
  pending : t.dma.pending = p
  active : t.dma.active = decide (p ≠ 0)
  cyc : t.cyc + p = s.cyc + (if s.cyc % 2 = 0 then 513 else 514)
  ab : 512 < p → t.cpu.ab = 0x4014
  oamAddr : t.ppu.oamAddr = s.ppu.oamAddr + BitVec.ofNat 8 k
  wf : t.ppu.oam.wf = true
  bytes : ∀ j < k, some (t.ppu.oam.read (s.ppu.oamAddr + BitVec.ofNat 8 j).toNat) =
    s.peek (joinBytes page (BitVec.ofNat 8 j))

theorem Copied.peek {s t : State} {page : Byte} {k p : Nat} (h : Copied s page k p t) (a : Word) : t.peek a = s.peek a :=
  State.peek_congr h.ram h.prgRam h.cart a

/-- A cycle of the engine that reads. -/
theorem Copied.read {s t : State} {page : Byte} {k p : Nat} {a : Word} (h : Copied s page k (p + 1) t)
    (hdrive : t.dma.drive t.cpu = { t.cpu with ab := a, rw := .read }) (ha : t.readable a = true)
    (hab : 512 < p → a = 0x4014) :
    ∃ u, t.dmaTick = .ok u ∧ Copied s page k p u ∧ ∀ v, s.peek a = some v → u.dma.latch = v := by
  have hstep : t.dmaStep.cpu = { t.cpu with ab := a, rw := .read } := hdrive
  obtain ⟨u, hu, hread⟩ := State.busCycle_read (s := t.dmaStep) h.safe (by rw [hstep]) (by rw [hstep]; exact ha)
  obtain ⟨v, n, q, i, hcpu⟩ := hread.cpu
  have hwritten : u.ppu.oamAddr = t.ppu.oamAddr := congrArg (fun w => w.2.2.1) hread.written
  have hoam : u.ppu.oam = t.ppu.oam := hread.oam
  have hdma : u.dma = t.dma.countDown := hread.dma
  refine ⟨_, State.busCycle_dma_read (by rw [hstep]) hu, ⟨hread.safe, hread.ram.trans h.ram, hread.prgRam.trans h.prgRam,
    hread.cart.trans h.cart, h.cpu.trans ?_, ?_, ?_, ?_, ?_, fun hp => ?_, ?_, ?_, fun j hj => ?_⟩, fun w hw => ?_⟩
  · show t.cpu.Stalled u.cpu
    rw [hcpu, hstep]
    rfl
  · show u.dma.page = page
    rw [hdma]
    exact h.dmaPage
  · show u.dma.pending = p
    rw [hdma]
    exact congrArg (· - 1) h.pending
  · show u.dma.active = _
    rw [hdma]
    show decide (t.dma.pending - 1 ≠ 0) = _
    rw [h.pending, Nat.add_sub_cancel]
  · have hcyc : u.cyc = t.cyc + 1 := hread.cyc
    show u.cyc + p = _
    rw [hcyc, ← h.cyc]
    omega
  · show u.cpu.ab = _
    rw [hcpu, hstep]
    exact hab hp
  · exact hwritten.trans h.oamAddr
  · show u.ppu.oam.wf = true
    rw [hoam]
    exact h.wf
  · show some (u.ppu.oam.read _) = _
    rw [hoam]
    exact h.bytes j hj
  · refine hread.value w ?_
    rw [hstep]
    exact (h.peek a).trans hw

/-- The cycle of the engine that writes a byte to OAMDATA. -/
theorem Copied.write {s t : State} {page : Byte} {k p : Nat} (h : Copied s page k (p + 1) t) (hp : p + (2 * k + 2) = 512)
    (hlatch : some t.dma.latch = s.peek (joinBytes page (BitVec.ofNat 8 k))) :
    ∃ u, t.dmaTick = .ok u ∧ Copied s page (k + 1) p u := by
  have hstep : t.dmaStep.cpu = { t.cpu with ab := 0x2004, db := t.dma.latch, rw := .write } :=
    Dma.drive_write (k := k) t.cpu (by rw [h.pending]; omega)
  have htarget : cpuTarget t.dmaStep.cpu.ab = .ppu 4 := by
    rw [hstep]
    show cpuTarget 0x2004 = .ppu 4
    decide
  obtain ⟨u, hu, hwrite⟩ := State.busCycle_write (s := t.dmaStep) h.safe (by rw [hstep])
    (by unfold State.writable; rw [htarget]; rfl)
  obtain ⟨n, q, i, hcpu⟩ := hwrite.cpu
  have hdma : u.dma = t.dma.countDown := hwrite.dma
  have hram := hwrite.ram
  have hprg := hwrite.prgRam
  rw [htarget] at hram hprg
  obtain ⟨hoam, haddr⟩ := busCycle_writeOamData hu (by rw [hstep]) htarget
  have hdb : t.dmaStep.cpu.db = t.dma.latch := by rw [hstep]
  have hppu : t.dmaStep.ppu = t.ppu := rfl
  rw [hdb, hppu, h.oamAddr] at hoam
  rw [hppu, h.oamAddr] at haddr
  refine ⟨u, State.busCycle_dma_write (by rw [hstep]) hu, ⟨hwrite.safe, hram.trans h.ram, hprg.trans h.prgRam,
    hwrite.cart.trans h.cart, h.cpu.trans ?_, ?_, ?_, ?_, ?_, fun hp' => by omega, ?_, ?_, fun j hj => ?_⟩⟩
  · rw [hcpu, hstep]
    rfl
  · rw [hdma]
    exact h.dmaPage
  · rw [hdma]
    exact congrArg (· - 1) h.pending
  · rw [hdma]
    show decide (t.dma.pending - 1 ≠ 0) = _
    rw [h.pending, Nat.add_sub_cancel]
  · have hcyc : u.cyc = t.cyc + 1 := hwrite.cyc
    rw [hcyc, ← h.cyc]
    omega
  · rw [haddr, BitVec.ofNat_add, BitVec.add_assoc]
    rfl
  · rw [hoam]
    exact Memory.wf_write h.wf _ _
  · rw [hoam]
    obtain hlt | rfl := Nat.lt_succ_iff_lt_or_eq.1 hj
    · rw [Memory.read_write_other _ ?_]
      · exact h.bytes j hlt
      · intro he
        have he' := add_left_cancel (BitVec.eq_of_toNat_eq he)
        have hnat := congrArg BitVec.toNat he'
        simp only [BitVec.toNat_ofNat] at hnat
        omega
    · rw [Memory.read_write_same h.wf]
      exact hlatch

theorem dmaTicks_step {n : Nat} {t u : State} (ha : t.dma.active = true) (h : t.dmaTick = .ok u) :
    State.dmaTicks (n + 1) t = State.dmaTicks n u := by
  show (if t.dma.active then andThen t.dmaTick (State.dmaTicks n) else .ok t) = _
  rw [if_pos ha, h, andThen_ok]

theorem Copied.isActive {s t : State} {page : Byte} {k p : Nat} (h : Copied s page k (p + 1) t) : t.dma.active = true := by
  rw [h.active]
  simp

/-- A dummy read. -/
theorem Copied.dummy {s t : State} {page : Byte} {p : Nat} (h : Copied s page 0 (p + 1) t) (hp : 512 ≤ p) :
    ∃ u, t.dmaTick = .ok u ∧ Copied s page 0 p u := by
  have hab : t.cpu.ab = 0x4014 := h.ab (by omega)
  have hdrive := Dma.drive_dummy (d := t.dma) t.cpu (by rw [h.pending]; omega)
  have hread : t.readable 0x4014 = true := by
    unfold State.readable
    rw [show cpuTarget 0x4014 = .oamDma by decide]
  obtain ⟨u, hu, hcopied, -⟩ := h.read (a := 0x4014) (by rw [hdrive, ← hab]) hread fun _ => rfl
  exact ⟨u, hu, hcopied⟩

/-- The bytes that are left, a read and a write each. -/
theorem Copied.finish {s : State} {page : Byte} (hbytes : ∀ k : Byte, (s.peek (joinBytes page k)).isSome = true) (m n : Nat) :
    ∀ {t : State} {k : Nat}, k + m = 256 → Copied s page k (2 * m) t →
      ∃ u, State.dmaTicks (2 * m + n) t = .ok u ∧ Copied s page 256 0 u := by
  induction m with
  | zero =>
    intro t k hk h
    obtain rfl : k = 256 := hk
    exact ⟨t, State.dmaTicks_idle (by rw [h.active]; rfl) _, h⟩
  | succ m ih =>
    intro t k hk h
    obtain ⟨v, hv⟩ := Option.isSome_iff_exists.1 (hbytes (BitVec.ofNat 8 k))
    have hdrive := Dma.drive_read (d := t.dma) (k := k) t.cpu (by rw [h.pending]; omega)
    rw [h.dmaPage] at hdrive
    have hread : t.readable (joinBytes page (BitVec.ofNat 8 k)) = true := State.readable_of_peek ((h.peek _).trans hv)
    obtain ⟨u, hu, hcopied, hlatch⟩ := Copied.read (p := 2 * m + 1) h hdrive hread (by omega)
    obtain ⟨w, hw, hcopied'⟩ := Copied.write (p := 2 * m) hcopied (by omega) (by rw [hlatch v hv, hv])
    obtain ⟨x, hx, hdone⟩ := ih (t := w) (k := k + 1) (by omega) hcopied'
    refine ⟨x, ?_, hdone⟩
    rw [show 2 * (m + 1) + n = 2 * m + n + 1 + 1 by omega, dmaTicks_step (Copied.isActive (p := 2 * m + 1) h) hu,
      dmaTicks_step (Copied.isActive (p := 2 * m) hcopied) hw]
    exact hx

/-- Settles O40: the dummy reads, then 256 bytes. -/
theorem oamDmaCopiesThePage : Obligations.OamDmaCopiesThePage := by
  intro s page hsafe hm hab hbytes
  have hstart : Copied s page 0 (if s.cyc % 2 = 0 then 513 else 514) (s.dmaStart page) := by
    refine ⟨hsafe, rfl, rfl, rfl, .refl _, rfl, ?_, ?_, rfl, fun _ => hab, (BitVec.add_zero _).symm,
      Memory.wfSize_wf hm.oam, fun j hj => by omega⟩
    · show (if decide (s.cyc % 2 = 0) then 513 else 514) = _
      simp
    · split <;> rfl
  have hcopy : ∃ u, (s.dmaStart page).finishDma = .ok u ∧ Copied s page 256 0 u := by
    unfold State.finishDma
    rw [hstart.pending]
    split at hstart
    · next heven =>
      obtain ⟨t, ht, h⟩ := Copied.dummy (p := 512) hstart (by omega)
      rw [if_pos heven, dmaTicks_step (Copied.isActive (p := 512) hstart) ht]
      exact Copied.finish hbytes 256 1 rfl h
    · next hodd =>
      obtain ⟨t, ht, h⟩ := Copied.dummy (p := 513) hstart (by omega)
      obtain ⟨u, hu, h'⟩ := Copied.dummy (p := 512) h (by omega)
      rw [if_neg hodd, dmaTicks_step (Copied.isActive (p := 513) hstart) ht, dmaTicks_step (Copied.isActive (p := 512) h) hu]
      exact Copied.finish hbytes 256 1 rfl h'
  obtain ⟨t, ht, h⟩ := hcopy
  refine ⟨t, ht, h.active, h.cyc, fun k => ?_, ?_, ?_, h.cpu.t, h.cpu.deferred, h.peek⟩
  · have hk := h.bytes k.toNat k.isLt
    rwa [BitVec.ofNat_toNat, BitVec.setWidth_eq] at hk
  · rw [h.oamAddr]
    exact BitVec.add_zero _
  · rw [h.cpu]

end Sys2Proof.Machine
end

section
/-! PROOF. Loads from the device registers and stores to them, in the absolute forms (rules R85 to R97, R342 to R356). -/

namespace Sys2Proof.Machine

/-! ## The PPU's register accesses -/

theorem Ppu.cpuAccess_opened {p : Ppu} (h : p.access = true) : p.cpuAccess = p.opened.registerAccess :=
  Ppu.cpuAccess_busy h

/-- A read of a write-only register has no effect (rule R356). -/
theorem Ppu.registerAccess_readNothing {p : Ppu} (hrw : p.cpuRw = .read)
    (hk : p.cpuReg ∈ ([0, 1, 3, 5, 6] : List (BitVec 3))) : p.registerAccess = p := by
  unfold Ppu.registerAccess
  rw [hrw]
  simp only [List.mem_cons, List.not_mem_nil, or_false] at hk
  obtain h | h | h | h | h := hk <;> rw [h] <;> rfl

theorem serialByte_eq_mod (sr : Byte) : serialByte sr = BitVec.ofNat 8 (sr.toNat % 2) := by
  revert sr; decide

/-! ## Loads -/

/-- A load from a device outside the PPU: the byte its read gives, after three dots; `b` and `c` are what the read leaves of
the APU and of the controller port. -/
theorem readAbs_plain {op : ReadOp} {s : State} {a : Word} {v : Byte} {b : Apu} {c : Controller} (hs : s.CanRun)
    (ha : ∀ r, cpuTarget a ≠ .ppu r)
    (hread : ∀ u : State, u.apu = s.apu → u.ctl = s.ctl → u.cyc = s.cyc →
      u.busRead a = .ok (v, { u with apu := b, ctl := c })) :
    ∃ t, readUse op (.abs a) s = .next t ∧ t.cpu.regs = op.run v s.cpu.regs ∧ t.apu = b.step ∧ t.ctl = c := by
  have hdrive : (s.withCpu (s.cpu.loading a op)).driveBus = .ok (s.withCpu (s.cpu.loading a op)) := by
    unfold State.driveBus
    show (match cpuTarget a with | .ppu r => _ | _ => _) = _
    split
    · next r hr => exact absurd hr (ha r)
    · rfl
  obtain ⟨q, hq, -⟩ := State.ppuSteps_idle (s := s.withCpu (s.cpu.loading a op)) hs.1.2
  obtain ⟨t, ht, hregs, hapu, hctl, -⟩ := readAbs_next (op := op) hs hdrive rfl hq (hread _ rfl rfl rfl) rfl
  exact ⟨t, ht, hregs, hapu, hctl⟩

/-- The addresses from 0x4000 to 0x4014 select no device to a read. -/
theorem cpuTarget_noDevice {a : Word} (hlo : 0x4000 ≤ a.toNat) (hhi : a.toNat ≤ 0x4014) :
    (∃ k, cpuTarget a = .apu k) ∨ cpuTarget a = .oamDma := by
  unfold cpuTarget
  dsimp only
  rw [if_neg (by omega), if_neg (by omega)]
  split
  · exact .inl ⟨_, rfl⟩
  · rw [if_pos (by omega)]
    exact .inr rfl

theorem busRead_noDevice {a : Word} (h : (∃ k, cpuTarget a = .apu k) ∨ cpuTarget a = .oamDma) (s : State) :
    s.busRead a = .ok (Config.openBus s.cyc, s) := by
  unfold State.busRead
  obtain ⟨k, h⟩ | h := h <;> rw [h]

/-- Settles O19: the read cycle of each device. -/
theorem loadsFromDevices : Obligations.LoadsFromDevices := by
  intro i op s a hi hs uses buffered
  have hrun : exec i s = readUse op (.abs a) s := by rw [exec_form, hi]; rfl
  -- a register of the PPU: what its access leaves
  have hppu : ∀ (k : BitVec 3) (q : Ppu), cpuTarget a = .ppu k →
      ({ s.ppu with cpuReg := k, cpuRw := .read, access := true } : Ppu).cpuAccess = q → ∀ after : State → Prop,
      (∀ t : State, q.Held t.ppu → t.vram = s.vram → (q.renderingEnabled = false → t.ppu.v = q.v) → after t) →
      uses q.cpuData after := by
    rintro k q hk rfl after hafter
    obtain ⟨t, ht, hregs, hheld, hvram, hv⟩ := readAbs_ppu (op := op) hs hk rfl
    exact ⟨t, hrun.trans ht, hregs, hafter t hheld hvram hv⟩
  refine ⟨?_, ?_, ?_, ?_, ?_, ?_, ?_, ?_⟩
  · rintro rfl
    obtain ⟨t, ht, hregs, hapu, -⟩ := readAbs_plain (op := op) (v := s.apu.status) (b := { s.apu with frameIrq := false })
      (c := s.ctl) (a := 0x4015) hs (by decide) fun u hapu hctl _ => by
        unfold State.busRead
        rw [show cpuTarget 0x4015 = .apuStatus by decide, ← hapu, ← hctl]
    exact ⟨t, hrun.trans ht, hregs, hapu⟩
  · rintro rfl
    rw [← serialByte_eq_mod, ← shiftRight_one_eq]
    obtain ⟨t, ht, hregs, -, hctl⟩ := readAbs_plain (op := op) (v := serialByte s.ctl.sr1) (b := s.apu)
      (c := { s.ctl with sr1 := s.ctl.sr1 >>> 1 }) (a := 0x4016) hs (by decide) fun u hapu hctl _ => by
        unfold State.busRead
        rw [show cpuTarget 0x4016 = .pad1 by decide, ← hapu, ← hctl]
    exact ⟨t, hrun.trans ht, hregs, hctl⟩
  · rintro rfl
    rw [← serialByte_eq_mod, ← shiftRight_one_eq]
    obtain ⟨t, ht, hregs, -, hctl⟩ := readAbs_plain (op := op) (v := serialByte s.ctl.sr2) (b := s.apu)
      (c := { s.ctl with sr2 := s.ctl.sr2 >>> 1 }) (a := 0x4017) hs (by decide) fun u hapu hctl _ => by
        unfold State.busRead
        rw [show cpuTarget 0x4017 = .pad2 by decide, ← hapu, ← hctl]
    exact ⟨t, hrun.trans ht, hregs, hctl⟩
  · intro hk
    have haccess := Ppu.cpuAccess_opened (p := { s.ppu with cpuReg := 2, cpuRw := .read, access := true }) rfl
    rw [Ppu.registerAccess_status rfl rfl] at haccess
    rw [← Ppu.statusByte_toNat, BitVec.ofNat_toNat, BitVec.setWidth_eq]
    exact hppu 2 _ hk haccess _ fun t ht _ _ => ht.w
  · intro hk
    obtain ⟨hdata, -, haddr⟩ := Ppu.cpuAccess_readOamData
      (p := { s.ppu with cpuReg := 4, cpuRw := .read, access := true }) rfl rfl rfl
    rw [← hdata]
    exact hppu 4 _ hk rfl _ fun t ht _ _ => ht.oamAddr.trans haddr
  · intro hk hoff
    set p : Ppu := { s.ppu with cpuReg := 7, cpuRw := .read, access := true } with hp
    have haccess : p.cpuAccess = p.opened.readData := Ppu.cpuAccess_readData rfl rfl rfl
    have hdata : p.opened.readData.cpuData =
        if s.ppu.dataAddr.toNat < 0x3F00 then buffered else s.ppu.palette.read (s.ppu.dataAddr.toNat % 32) := by
      show p.opened.dataOr _ = _
      rw [Ppu.dataOr_off (p := p.opened) hoff, paletteIndex_eq]
      rfl
    rw [← hdata]
    exact hppu 7 _ hk haccess _ fun t _ _ hv => hv hoff
  · intro k hmem hk
    set p : Ppu := { s.ppu with cpuReg := k, cpuRw := .read, access := true } with hp
    have haccess : p.cpuAccess = p.opened :=
      (Ppu.cpuAccess_opened rfl).trans (Ppu.registerAccess_readNothing rfl hmem)
    exact hppu k p.opened hk haccess _ fun t ht hvram hv =>
      ⟨ht.cpuData, ht.written, ht.w, ht.oam, ht.palette, hvram, hv⟩
  · intro hlo hhi
    have hnone := cpuTarget_noDevice hlo hhi
    have hplain : ∀ r, cpuTarget a ≠ .ppu r := by
      intro r hr
      rw [hr] at hnone
      obtain ⟨k, h⟩ | h := hnone <;> cases h
    obtain ⟨t, ht, hregs, hapu, hctl⟩ := readAbs_plain (op := op) (v := Config.openBus s.cyc) (b := s.apu) (c := s.ctl) hs
      hplain fun u hapu hctl hcyc => by rw [busRead_noDevice hnone, ← hapu, ← hctl, ← hcyc]
    exact ⟨t, hrun.trans ht, hregs, hapu, hctl⟩

/-! ## Stores -/

/-- A store to a device outside the PPU: what its write leaves, and three dots. -/
theorem storeAbs_plain {r : StoreReg} {s s1 : State} {a : Word} (hs : s.CanRun)
    (hw : (s.withCpu (s.cpu.storing a (r.value s.cpu.regs))).busWrite a (r.value s.cpu.regs) = .ok s1)
    (hcpu : s1.cpu = s.cpu.storing a (r.value s.cpu.regs)) (hppu : s1.ppu = s.ppu) (hcart : s1.cart = s.cart) :
    ∃ q, store r (.abs a) s = .next (State.latchNmi { s1 with ppu := q }).endTick := by
  have hsafe : s1.PpuSafe := by
    unfold State.PpuSafe
    rw [hppu, hcart]
    exact hs.1.2
  obtain ⟨q, hq, -⟩ := State.ppuSteps_idle hsafe
  exact ⟨q, storeAbs_next hs hw hq hcpu⟩

/-- A dot with no access and rendering off: only the raster and the flags of the v-blank move. -/
theorem State.ppuStep_resting {s : State} (ha : s.ppu.access = false) (hoff : s.ppu.renderingEnabled = false) :
    ∃ q : Ppu, s.ppuStep = .ok { s with ppu := q } ∧ q.v = s.ppu.v ∧ q.palette = s.ppu.palette ∧ q.access = false ∧
      q.renderingEnabled = false := by
  have hidle := Ppu.cpuAccess_idle ha
  have hstep := Ppu.step_off (p := s.ppu) (by rw [hidle]; exact hoff)
  obtain ⟨v, f, o, d, l, x, he⟩ := s.ppu.endStrobes.edges_only
  rw [hidle, he] at hstep
  exact ⟨_, State.ppuStep_quiet hstep rfl rfl, rfl, rfl, ha, hoff⟩

theorem State.ppuSteps_error {s : State} {f : Fault} (h : s.ppuStep = .error f) : s.ppuSteps = .error f := by
  unfold State.ppuSteps
  rw [h]
  rfl

/-- A store to PPUDATA below the palette, from 0x2000 on: the first dot writes VRAM. -/
theorem storeAbs_vram {r : StoreReg} {s : State} {a : Word} (hs : s.CanRun) (ha : cpuTarget a = .ppu 7)
    (hoff : s.ppu.renderingEnabled = false) (hge : 0x2000 ≤ s.ppu.dataAddr.toNat)
    (hlt : s.ppu.dataAddr.toNat < 0x3F00) :
    ∃ t, store r (.abs a) s = .next t ∧ t.cpu.regs = s.cpu.regs ∧ (∀ b, t.peek b = s.peek b) ∧
      t.ppu.v = s.ppu.v + (if s.ppu.ctrl.vramIncrement then 32 else 1) ∧
      t.vram = s.vram.write (vramIndex s.cart.mirroring s.ppu.dataAddr) (r.value s.cpu.regs) ∧
      t.ppu.palette = s.ppu.palette := by
  set v := r.value s.cpu.regs with hv
  set s1 : State := { s.withCpu (s.cpu.storing a v) with
    ppu := { s.ppu with cpuReg := 7, cpuData := v, cpuRw := .write, access := true } } with hs1
  obtain ⟨q, hq, qv, qp, qa, qoff⟩ := State.ppuStep_writeVram (s := s1) hoff rfl rfl rfl hlt
  unfold State.ppuBusWrite at hq
  rw [if_neg (Nat.not_lt.2 (show 0x2000 ≤ s1.ppu.dataAddr.toNat from hge))] at hq
  set s2 : State := { s1 with
    ppu := q, vram := s.vram.write (vramIndex s.cart.mirroring s.ppu.dataAddr) v } with hs2
  obtain ⟨q', hq', qv', qp', qa', qoff'⟩ := State.ppuStep_resting (s := s2) qa qoff
  obtain ⟨q'', hq'', qv'', qp'', -⟩ := State.ppuStep_resting (s := { s2 with ppu := q' }) qa' qoff'
  have hdots : s1.ppuSteps = .ok { s2 with ppu := q'' } := by
    unfold State.ppuSteps
    rw [hq, andThen_ok]
    show andThen s2.ppuStep State.ppuStep = _
    rw [hq', andThen_ok]
    exact hq''
  have hnext := storeAbs_next (r := r) (s1 := s1) hs (busWrite_ppu _ _ ha) hdots rfl
  exact ⟨_, hnext, rfl, fun _ => rfl, qv''.trans (qv'.trans qv), rfl, qp''.trans (qp'.trans qp)⟩

/-- The write of the APU's register file that a store makes. -/
theorem busWrite_apu {a : Word} (hlo : 0x4000 ≤ a.toNat) (hhi : a.toNat ≤ 0x4017) (h14 : a ≠ 0x4014) (h16 : a ≠ 0x4016)
    (s : State) (v : Byte) : s.busWrite a v = .ok { s with apu := s.apu.write (a.toNat - 0x4000) v } := by
  unfold State.busWrite
  by_cases hlow : a.toNat < 0x4014
  · have htarget : cpuTarget a = .apu (a.toNat - 0x4000) := by
      unfold cpuTarget
      dsimp only
      rw [if_neg (by omega), if_neg (by omega), if_pos hlow]
    rw [htarget]
  · obtain rfl | rfl : a = 0x4015 ∨ a = 0x4017 := by bv_omega
    · rfl
    · rfl

/-- Settles O21: the write cycle of each device. -/
theorem storesToDevices : Obligations.StoresToDevices := by
  intro i r s a hi hs hm v p takes sets
  have hrun : exec i s = store r (.abs a) s := by rw [exec_form, hi]; rfl
  -- a register of the PPU whose access asks for no VRAM write: what the access leaves
  have hppu : ∀ (k : BitVec 3) (q : Ppu), cpuTarget a = .ppu k →
      ({ p with cpuReg := k, cpuData := v, cpuRw := .write, access := true } : Ppu).cpuAccess = q →
      q.vramWr = false → q.NoTallSprite → ∀ after : State → Prop,
      (∀ t : State, q.Held t.ppu → t.vram = s.vram → (q.renderingEnabled = false → t.ppu.v = q.v) → after t) →
      takes after := by
    rintro k q hk rfl hw hn after hafter
    obtain ⟨t, ht, hregs, hpeek, hheld, hvram, hv⟩ := storeAbs_ppu (r := r) hs hk rfl hw hn
    exact ⟨t, hrun.trans ht, hregs, hpeek, hafter t hheld hvram hv⟩
  have hsets : ∀ (k : BitVec 3) (q : Ppu), cpuTarget a = .ppu k →
      ({ p with cpuReg := k, cpuData := v, cpuRw := .write, access := true } : Ppu).cpuAccess = q →
      q.vramWr = false → q.NoTallSprite → q.cpuData = v → q.oam = p.oam → q.palette = p.palette →
      ∀ after : State → Prop, (∀ t : State, (q.renderingEnabled = false → t.ppu.v = q.v) → after t) →
      sets q.written q.w after := fun k q hk hq hw hn hdata hoam hpal after hafter =>
    hppu k q hk hq hw hn _ fun t hheld hvram hv =>
      ⟨hheld.written, hheld.w, hheld.cpuData.trans hdata, hheld.oam.trans hoam, hheld.palette.trans hpal, hvram,
        hafter t hv⟩
  have htall : p.NoTallSprite := hs.1.2.2.2
  refine ⟨fun hk hn => ?_, fun hk hn => ?_, fun hk => ?_, fun hk => ?_, fun hk => ?_, fun hk => ?_, fun hk => ?_,
    fun hk hoff => ⟨fun hlow => ?_, fun hge hlt => ?_, fun hge => ?_⟩, ?_, fun hlo hhi h14 h16 => ?_, ?_⟩
  · exact hsets 0 _ hk rfl rfl hn rfl rfl rfl _ fun _ _ => trivial
  · refine hsets 1 _ hk rfl rfl (hn.imp_right fun h => ?_) rfl rfl rfl _ fun _ _ => trivial
    show (v.getLsbD 3 || v.getLsbD 4) = false
    rw [h.1, h.2]
    rfl
  · exact hsets 2 _ hk rfl rfl htall rfl rfl rfl _ fun _ hv => hv
  · exact hsets 3 _ hk rfl rfl htall rfl rfl rfl _ fun _ hv => hv
  · obtain ⟨hoam, haddr⟩ := Ppu.cpuAccess_writeOamData
      (p := { p with cpuReg := 4, cpuData := v, cpuRw := .write, access := true }) rfl rfl rfl
    refine hppu 4 _ hk rfl rfl htall _ fun t hheld _ _ => ⟨?_, hheld.oamAddr.trans haddr, fun k hne => ?_⟩
    · rw [hheld.oam, hoam]
      exact Memory.read_write_same (Memory.wfSize_wf hm.oam) _ _
    · rw [hheld.oam, hoam]
      exact Memory.read_write_other _ hne _
  · have hsame : (({ p with cpuReg := 5, cpuData := v, cpuRw := .write, access := true } : Ppu).opened.writeScroll v) =
        { ({ p with cpuReg := 5, cpuData := v, cpuRw := .write, access := true } : Ppu).opened with
          t := (p.writeScroll v).t, fineX := (p.writeScroll v).fineX, w := !p.w } := by
      unfold Ppu.writeScroll
      show (if p.w then _ else _) = _
      cases hw : p.w <;> rfl
    exact hsets 5 _ hk (Eq.trans rfl hsame) rfl htall rfl rfl rfl _ fun _ hv => hv
  · have hsame : (({ p with cpuReg := 6, cpuData := v, cpuRw := .write, access := true } : Ppu).opened.writeAddr v) =
        { ({ p with cpuReg := 6, cpuData := v, cpuRw := .write, access := true } : Ppu).opened with
          t := (p.writeAddr v).t, v := if p.w then (p.writeAddr v).t else p.v, w := !p.w } := by
      unfold Ppu.writeAddr
      show (if p.w then _ else _) = _
      cases hw : p.w <;> rfl
    exact hsets 6 _ hk (Eq.trans rfl hsame) rfl htall rfl rfl rfl _ fun _ hv => hv
  · have hbus := busWrite_ppu (s.withCpu (s.cpu.storing a v)) v hk
    have hstop := (ppuDataWrite { s.withCpu (s.cpu.storing a v) with
      ppu := { p with cpuReg := 7, cpuData := v, cpuRw := .write, access := true } } hoff rfl rfl rfl).1 hlow
    exact hrun.trans (storeAbs_fault hs hbus (State.ppuSteps_error hstop))
  · obtain ⟨t, ht, hregs, hpeek, hv, hvram, hpal⟩ := storeAbs_vram (r := r) hs hk hoff hge hlt
    exact ⟨t, hrun.trans ht, hregs, hpeek, hv, hvram, hpal⟩
  · have haccess := Ppu.cpuAccess_writePalette
      (p := { p with cpuReg := 7, cpuData := v, cpuRw := .write, access := true }) hoff rfl rfl rfl hge
    exact hppu 7 _ hk haccess rfl htall _ fun t hheld hvram hv => ⟨hv hoff, hheld.palette, hvram⟩
  · rintro rfl
    obtain ⟨q, hq⟩ := storeAbs_plain (r := r) (s1 := (s.withCpu (s.cpu.storing 0x4014 v)).dmaStart v) hs rfl rfl rfl rfl
    refine ⟨_, hrun.trans hq, rfl, fun _ => rfl, rfl, rfl, ?_⟩
    show ({ s.dma with page := v, align := decide (s.cyc % 2 = 0), active := true,
                       pending := if decide (s.cyc % 2 = 0) then 513 else 514 } : Dma) = _
    simp only [decide_eq_true_eq]
  · obtain ⟨q, hq⟩ := storeAbs_plain (r := r) hs (busWrite_apu hlo hhi h14 h16 (s.withCpu (s.cpu.storing a v)) v) rfl rfl rfl
    generalize a.toNat - 0x4000 = k at hq
    exact ⟨_, hrun.trans hq, rfl, fun _ => rfl, rfl, rfl, rfl⟩
  · rintro rfl
    obtain ⟨q, hq⟩ := storeAbs_plain (r := r) (s1 := { s.withCpu (s.cpu.storing 0x4016 v) with ctl := s.ctl.writeLatch v })
      hs rfl rfl rfl rfl
    exact ⟨_, hrun.trans hq, rfl, fun _ => rfl, rfl, rfl, rfl⟩

end Sys2Proof.Machine
end
